-- ==== Sys2Proof/Word.lean ====
section
/-! DEFINITION. The widths of everything the block moves (20_memory.md R55): 8-bit bytes, 16-bit fields and slots,
and the byte string that is one frame (00_scope.md R9). -/

namespace Sys2Proof

/-- An 8-bit byte: unit id, function code, exception code (R55). -/
abbrev Byte := BitVec 8

/-- A 16-bit pattern, the spec's `u16`: a wire field or a Register Map slot (R20, R55). -/
abbrev Word := BitVec 16

/-- One frame: byte 0 is the first byte the transport received (R9). -/
abbrev Frame := List Byte

end Sys2Proof
end

