-- ==== Sys2Proof/Config.lean ====
section
/-! DEFINITION. The implementation parameters of 00_scope.md R6 and the well-formedness of R7.
A parameter the spec marks OPEN is a field; no value of it is fixed here but in the example configuration EX. -/

namespace Sys2Proof

/-- The two exception codes the block uses (30_encoding.md R79). -/
inductive ExcCode where
  /-- unsupported function code, `0x01` -/
  | illegalFunction
  /-- unknown register address, `0x02` -/
  | illegalDataAddress
  deriving DecidableEq, Repr

/-- The parameters of R6 that a model takes as arguments. `DBG_SLOT` is fixed at 0 by the source and `TICK_PERIOD` is
not modelled (R6). `truncExc` ranges over exactly the two values R6 allows `TRUNC_EXC`. -/
structure Config where
  /-- `REGMAP_N`, the number of Register Map slots -/
  regmapN : Nat
  /-- `ADDR_SOC`, wire address of StateOfCharge -/
  addrSoc : Word
  /-- `ADDR_PTD`, wire address of PowerToDeliver -/
  addrPtd : Word
  /-- `ADDR_DBG`, wire address of enableDebugTrace -/
  addrDbg : Word
  /-- `P_KW`, rated power in kW -/
  pKw : Nat
  /-- `T_CHG`, seconds for a full charge at rated power -/
  tChg : Nat
  /-- `T_DIS`, seconds for a full discharge at rated power -/
  tDis : Nat
  /-- `TRUNC_EXC`, exception code of a truncated frame -/
  truncExc : ExcCode
  deriving DecidableEq, Repr

/-- R7, with the range `1 <= REGMAP_N <= 65536` that R6 gives the parameter. -/
def Config.wf (c : Config) : Bool :=
  decide (c.addrSoc ≠ c.addrPtd ∧ c.addrSoc ≠ c.addrDbg ∧ c.addrPtd ≠ c.addrDbg
    ∧ 1 ≤ c.addrSoc.toNat ∧ c.addrSoc.toNat < c.regmapN
    ∧ 1 ≤ c.addrPtd.toNat ∧ c.addrPtd.toNat < c.regmapN
    ∧ c.addrSoc ≠ 0x0063#16 ∧ c.addrPtd ≠ 0x0063#16
    ∧ 0 < c.pKw ∧ 0 < c.tChg ∧ 0 < c.tDis
    ∧ 1 ≤ c.regmapN ∧ c.regmapN ≤ 65536)

/-- The example configuration EX of R6 (92_eei_decisions.md D28). -/
def Config.ex : Config :=
  { regmapN := 65535, addrSoc := 0x0001#16, addrPtd := 0x0002#16, addrDbg := 0x0000#16,
    pKw := 230, tChg := 100, tDis := 200, truncExc := .illegalFunction }

end Sys2Proof
end

