-- ==== Sys2Proof/Syntax.lean ====
section
/-! DEFINITION. The block's instructions: the kinds of request a frame can spell (30_encoding.md R77) and the two
events that are not frames. One constructor per row of spec/opcode_table.json. -/

namespace Sys2Proof

/-- What the host hands in: a frame on `REQ`, an event on `TICK`, an event on `RESET` (00_scope.md R8). -/
inductive Input where
  | frame (F : Frame)
  | tick
  | reset
  deriving DecidableEq, Repr

/-- The header fields that no rule checks and every reply echoes (40_frame_codec.md R108). -/
structure Header where
  /-- transaction id, `F[0..1]` -/
  tid : Word
  /-- protocol id, `F[2..3]` -/
  pid : Word
  /-- unit id, `F[6]` -/
  uid : Byte
  deriving DecidableEq, Repr

/-- The two function codes that are implemented (00_scope.md R2). -/
inductive FunctionCode where
  /-- Read Holding Registers -/
  | readHolding
  /-- Write Single Register -/
  | writeSingle
  deriving DecidableEq, Repr

/-- One constructor per row of spec/opcode_table.json.
The length field `L` of a served request is not a field here: it is `6 + extra.length` (R71, R72), where `extra` holds the
data bytes after the fourth. -/
inductive Instr where
  /-- NO_REPLY (R101): a frame with no function code. The bytes are kept whole and no meaning reads them. -/
  | noReply (bytes : Frame)
  /-- UNSUPPORTED_FC (R102): `data` is whatever follows the function code. -/
  | unsupportedFc (hdr : Header) (len : Word) (fc : Byte) (data : Frame)
  /-- TRUNCATED (R103): `data` is whatever follows the function code. -/
  | truncated (hdr : Header) (len : Word) (fc : FunctionCode) (data : Frame)
  /-- READ_SOC (R131) -/
  | readSoc (hdr : Header) (value : Word) (extra : Frame)
  /-- READ_PTD (R132) -/
  | readPtd (hdr : Header) (value : Word) (extra : Frame)
  /-- READ_ILLEGAL (R133) -/
  | readIllegal (hdr : Header) (address value : Word) (extra : Frame)
  /-- WRITE_PTD (R151) -/
  | writePtd (hdr : Header) (value : Word) (extra : Frame)
  /-- WRITE_DBG (R157) -/
  | writeDbg (hdr : Header) (value : Word) (extra : Frame)
  /-- WRITE_ILLEGAL (R158) -/
  | writeIllegal (hdr : Header) (address value : Word) (extra : Frame)
  /-- TICK (R180) -/
  | tick
  /-- RESET (R230) -/
  | reset
  deriving DecidableEq, Repr

end Sys2Proof
end

