-- ==== Sys2Proof/Machine/Operands.lean ====
section
/-! DEFINITION. Operand forms: the bytes and big-endian fields of a frame (00_scope.md R9, R10; 20_memory.md R54, R55;
30_encoding.md R70 to R74), the codes' numbers (R75, R79), and the setpoint operand (42_write_requests.md R152 to R156). -/

namespace Sys2Proof

/-- `a ++ b` with `a` more significant (R9): the 16-bit field whose first byte is `hi`. -/
def be16 (hi lo : Byte) : Word := hi ++ lo

/-- `v[15:8]` (R55) -/
def hiByte (v : Word) : Byte := v.extractLsb' 8 8

/-- `v[7:0]` (R55) -/
def loByte (v : Word) : Byte := v.extractLsb' 0 8

/-- The two bytes of a 16-bit field as they stand on the wire (R54). -/
def wordBytes (v : Word) : Frame := [hiByte v, loByte v]

/-- `F[i]`. No rule reads a byte the frame does not have: each checks the length first, so the 0 here is never used. -/
def memRead8 (F : Frame) (i : Nat) : Byte := F.getD i 0

/-- `MemRead(i, 2) = F[i] * 256 + F[i+1]` (R55). -/
def memRead16 (F : Frame) (i : Nat) : Word := be16 (memRead8 F i) (memRead8 F (i + 1))

/-- `MemWrite(i, 2, v)` into a frame (R55). -/
def memWrite16 (R : Frame) (i : Nat) (v : Word) : Frame := (R.set i (hiByte v)).set (i + 1) (loByte v)

/-- The length field `L`, `F[4..5]` (R70). -/
def frameLen (F : Frame) : Nat := (memRead16 F 4).toNat

/-- The echoed header fields (R70). -/
def frameHeader (F : Frame) : Header :=
  { tid := memRead16 F 0, pid := memRead16 F 2, uid := memRead8 F 6 }

/-- The function-code byte, `F[7]` (R70). -/
def frameFc (F : Frame) : Byte := memRead8 F 7

/-- `address = MemRead(8, 2)` (R72). -/
def frameAddress (F : Frame) : Word := memRead16 F 8

/-- `value = MemRead(10, 2)` (R72). -/
def frameValue (F : Frame) : Word := memRead16 F 10

/-- The function codes' numbers (R75). -/
def FunctionCode.toByte : FunctionCode → Byte
  | .readHolding => 0x03#8
  | .writeSingle => 0x06#8

/-- Which function code a byte is, if it is a supported one (R75, R76). -/
def functionCodeOf (b : Byte) : Option FunctionCode :=
  if b = 0x03#8 then some .readHolding else if b = 0x06#8 then some .writeSingle else none

/-- The exception codes' numbers (R79). -/
def ExcCode.toByte : ExcCode → Byte
  | .illegalFunction => 0x01#8
  | .illegalDataAddress => 0x02#8

/-- `DBG_SLOT`, fixed by the source (R6). -/
def dbgSlot : Nat := 0

/-- `dbg` as the 16-bit value 0 or 1 (R21). -/
def flagWord (b : Bool) : Word := if b then 1 else 0

/-- `sext_16(v)` (R10, R11). -/
def sext16 (v : Word) : Int := if v.toNat < 0x8000 then v.toNat else (v.toNat : Int) - 65536

/-- `magnitude = 65536 - raw`, read unsigned (R153). -/
def magnitude (raw : Word) : Nat := 65536 - raw.toNat

/-- `chargeResolution = 100 / (P_KW * T_CHG)` (10_state.md R34). -/
def chargeResolution (c : Config) : Rat := 100 / ((c.pKw : Rat) * (c.tChg : Rat))

/-- `dischargeResolution = 100 / (P_KW * T_DIS)` (R34). -/
def dischargeResolution (c : Config) : Rat := 100 / ((c.pKw : Rat) * (c.tDis : Rat))

/-- The `rate` that a setpoint sets, in the three branches of R152. -/
def setpointRate (c : Config) (raw : Word) : Rat :=
  if raw[15] then (magnitude raw : Rat) * chargeResolution c
  else if raw ≠ 0 then (raw.toNat : Rat) * dischargeResolution c
  else 0

/-- `SocValue(soc) = floor(10 * soc + 1/2)` as a `u16` (41_read_requests.md R135). -/
def socValue (soc : Rat) : Word := BitVec.ofInt 16 (10 * soc + 1 / 2).floor

end Sys2Proof
end

