-- ==== Sys2Proof/WellFormed.lean ====
section
/-! DEFINITION. Which instructions a frame can spell: the conditions of the request map (30_encoding.md R77), read on the
instruction's fields. -/

namespace Sys2Proof

/-- The declared length `6 + extra.length` fits the 16-bit length field (R71). -/
def extraFits (extra : Frame) : Bool := decide (extra.length + 6 < 65536)

/-- The condition column of R77 for each kind. -/
def Instr.wellFormed (c : Config) : Instr → Bool
  | .noReply bytes => decide (bytes.length < 8 ∨ frameLen bytes < 2)
  | .unsupportedFc _ len fc _ => decide (2 ≤ len.toNat ∧ functionCodeOf fc = none)
  | .truncated _ len _ data => decide (2 ≤ len.toNat ∧ (len.toNat < 6 ∨ 8 + data.length < 6 + len.toNat))
  | .readSoc _ _ extra => extraFits extra
  | .readPtd _ _ extra => extraFits extra
  | .readIllegal _ address _ extra =>
      decide (address ≠ c.addrSoc ∧ address ≠ c.addrPtd) && extraFits extra
  | .writePtd _ _ extra => extraFits extra
  | .writeDbg _ _ extra => extraFits extra
  | .writeIllegal _ address _ extra =>
      decide (address ≠ c.addrPtd ∧ address ≠ c.addrDbg) && extraFits extra
  | .tick => true
  | .reset => true

end Sys2Proof
end

