-- ==== Sys2Proof/Decode.lean ====
section
/-! DEFINITION. The frame decoder (30_encoding.md R77, 40_frame_codec.md R100 to R105), total on any bytes (R78: every byte
string is one of the kinds, so nothing is rejected), and after it the encoder. -/

namespace Sys2Proof

/-- The data bytes after the fourth that the length field declares, `F[12 .. 5+L]` (R72, R112). Bytes after `5 + L` are not
decoded (R111). -/
def frameExtra (F : Frame) : Frame := (F.take (6 + frameLen F)).drop 12

/-- The read routing (41_read_requests.md R130). -/
def decodeRead (c : Config) (hdr : Header) (address value : Word) (extra : Frame) : Instr :=
  if address = c.addrSoc then .readSoc hdr value extra
  else if address = c.addrPtd then .readPtd hdr value extra
  else .readIllegal hdr address value extra

/-- The write routing (42_write_requests.md R150). -/
def decodeWrite (c : Config) (hdr : Header) (address value : Word) (extra : Frame) : Instr :=
  if address = c.addrDbg then .writeDbg hdr value extra
  else if address = c.addrPtd then .writePtd hdr value extra
  else .writeIllegal hdr address value extra

/-- The kind a frame selects, its checks in the order of R100. -/
def decode (c : Config) (F : Frame) : Instr :=
  if F.length < 8 then .noReply F
  else if frameLen F < 2 then .noReply F
  else match functionCodeOf (frameFc F) with
    | none => .unsupportedFc (frameHeader F) (memRead16 F 4) (frameFc F) (F.drop 8)
    | some fc =>
      if frameLen F < 6 ∨ F.length < 6 + frameLen F then
        .truncated (frameHeader F) (memRead16 F 4) fc (F.drop 8)
      else match fc with
        | .readHolding => decodeRead c (frameHeader F) (frameAddress F) (frameValue F) (frameExtra F)
        | .writeSingle => decodeWrite c (frameHeader F) (frameAddress F) (frameValue F) (frameExtra F)

/-- What the host hands in, as an instruction; TICK and RESET are not frames (R77). -/
def decodeInput (c : Config) : Input → Instr
  | .frame F => decode c F
  | .tick => .tick
  | .reset => .reset

/-! ### The encoder, from the layout of R70 -/

/-- Bytes 0 to 7 of a frame (R70). -/
def headerBytes (hdr : Header) (len : Word) (fc : Byte) : Frame :=
  wordBytes hdr.tid ++ wordBytes hdr.pid ++ wordBytes len ++ [hdr.uid, fc]

/-- The frame of a supported request with its four data bytes and any further ones (R70 to R72). -/
def requestFrame (hdr : Header) (fc : FunctionCode) (address value : Word) (extra : Frame) : Frame :=
  headerBytes hdr (BitVec.ofNat 16 (6 + extra.length)) fc.toByte ++ wordBytes address ++ wordBytes value ++ extra

/-- The input that spells an instruction: its frame, or its event (R77). -/
def encode (c : Config) : Instr → Input
  | .noReply bytes => .frame bytes
  | .unsupportedFc hdr len fc data => .frame (headerBytes hdr len fc ++ data)
  | .truncated hdr len fc data => .frame (headerBytes hdr len fc.toByte ++ data)
  | .readSoc hdr value extra => .frame (requestFrame hdr .readHolding c.addrSoc value extra)
  | .readPtd hdr value extra => .frame (requestFrame hdr .readHolding c.addrPtd value extra)
  | .readIllegal hdr address value extra => .frame (requestFrame hdr .readHolding address value extra)
  | .writePtd hdr value extra => .frame (requestFrame hdr .writeSingle c.addrPtd value extra)
  | .writeDbg hdr value extra => .frame (requestFrame hdr .writeSingle c.addrDbg value extra)
  | .writeIllegal hdr address value extra => .frame (requestFrame hdr .writeSingle address value extra)
  | .tick => .tick
  | .reset => .reset

/-! ### Words of the opcode table -/

/-- The `k` low bytes of `w`, the most significant first: the table's layout note says that the top bit is bit 7 of `F[0]`. -/
def bytesBE (w : Nat) : Nat → Frame
  | 0 => []
  | k + 1 => BitVec.ofNat 8 (w >>> (8 * k)) :: bytesBE w k

/-- The frame that a word of spec/opcode_table.json stands for. The table gives a row either the eight bits of its `match`,
which it applies to the function-code byte `F[7]`, or the bits of its `encoding`, whose top bit is bit 7 of `F[0]`.
An eight-bit word is therefore the function code of a 12-byte frame whose length field is 6 and whose other bytes are 0.
DESIGN CHOICE, log 5. -/
def tableFrame (nbits w : Nat) : Frame :=
  if nbits = 0 then []
  else if nbits ≤ 8 then
    headerBytes { tid := 0, pid := 0, uid := 0 } 6 (BitVec.ofNat 8 w) ++ wordBytes 0 ++ wordBytes 0
  else bytesBE w (nbits / 8)

/-- The instruction that the decoder reads from a word of spec/opcode_table.json, under the configuration that
`State.reset` has (EX). -/
def decodeTableWord (nbits w : Nat) : Option Instr := some (decode Config.ex (tableFrame nbits w))

end Sys2Proof
end

