-- ==== Sys2Proof/Machine/State.lean ====
section
/-! DEFINITION. The machine's state as plain data (10_state.md R20 to R28), its reset value (70_reset_and_hazards.md R230),
and the reasons a step can stop. -/

namespace Sys2Proof.Machine

/-- R25. -/
inductive Mode where
  | idle
  | charging
  | discharging
  deriving DecidableEq, Repr

/-- What a transaction puts on `RSP`: a reply frame, or NoReply (00_scope.md R8, R10). -/
inductive Reply where
  | frame (R : Frame)
  | noReply
  deriving DecidableEq, Repr

/-- The Register Map `RM` (R20): the slots that do not hold their reset value `0x0000`, as (slot, value) pairs with rising
slot numbers. Its access is `Memory.read` and `Memory.write` of Machine/Ops.lean. -/
abbrev Memory := List (Nat × Word)

/-- The canonical form: slot numbers strictly rise, and no listed slot holds `0x0000`, which an unlisted slot reads as. -/
def Memory.wf (m : Memory) : Bool :=
  decide (m.Pairwise (fun a b => a.1 < b.1)) && m.all (fun a => decide (a.2 ≠ 0))

/-- Everything the machine holds. `rm`, `soc`, `mode`, `rate`, `sp` and `dbg` are the spec's state (10_state.md section 7).
`cfg`, `inputs` and `rsp` are the model's own (logs 1, 2, 3): the configuration, which no step changes, the events that the
host will hand in, next one first, and the replies written to `RSP`, oldest first. -/
structure State where
  /-- the configuration (R33) -/
  cfg : Config
  /-- the Register Map (R20) -/
  rm : Memory
  /-- state of charge, a percentage (R24) -/
  soc : Rat
  /-- battery mode (R25) -/
  mode : Mode
  /-- percentage change per tick (R26) -/
  rate : Rat
  /-- last power setpoint (R27) -/
  sp : Word
  /-- debug-trace flag (R28) -/
  dbg : Bool
  /-- what the host hands in from now on, in the one global order of steps (R59) -/
  inputs : List Input
  /-- what has left on `RSP` (R109) -/
  rsp : List Reply
  deriving DecidableEq, Repr

/-- No condition after startup stops the block (60_exceptions.md R207; 93_implementation_defined.md: no item is treated as
a fault or a stuck state), so there is no fault to name. -/
inductive Fault where
  deriving DecidableEq, Repr

/-- Why a step is refused. -/
inductive Refusal where
  /-- raised by an arm of `exec` whose instruction has no meaning yet; safe, and no arm raises it -/
  | notModelled (mnemonic : String)
  /-- raised by `step` in a state whose configuration is not well formed: such a configuration has no run (R7, R207); safe -/
  | illFormedConfig
  deriving DecidableEq, Repr

/-- The machine right after reset under configuration `c` (R230), before the host has handed anything in. -/
def State.init (c : Config) : State :=
  { cfg := c, rm := [], soc := 50, mode := .idle, rate := 0, sp := 0, dbg := false, inputs := [], rsp := [] }

/-- The machine right after reset, under the spec's example configuration EX (log 1). -/
def State.reset : State := State.init Config.ex

/-- The `DEBUG_TRACE` output: the current value of the debug flag (R8, R28). -/
def State.debugTrace (s : State) : Bool := s.dbg

end Sys2Proof.Machine
end

