-- ==== Sys2Proof/Machine/Flags.lean ====
section
/-! DEFINITION. The block has no condition codes; its status elements are `mode` and `dbg` (10_state.md R32). This file
says how each rule that writes one computes it. -/

namespace Sys2Proof.Machine

/-- The `mode` that a setpoint sets, in the three branches of 42_write_requests.md R152. -/
def setpointMode (raw : Word) : Mode :=
  if raw[15] then .charging else if raw ≠ 0 then .discharging else .idle

/-- `dbg <- 1 - dbg` (R157). -/
def toggleDbg (dbg : Bool) : Bool := !dbg

/-- `soc` and `mode` after a charging tick (43_tick.md R181). -/
def chargingTick (soc rate : Rat) : Rat × Mode :=
  if soc + rate > 100 then (100, .idle) else (soc + rate, .charging)

/-- `soc` and `mode` after a discharging tick (R182). -/
def dischargingTick (soc rate : Rat) : Rat × Mode :=
  if soc - rate < 0 then (0, .idle) else (soc - rate, .discharging)

end Sys2Proof.Machine
end

