-- ==== Sys2Proof/Machine/Ops.lean ====
section
/-! DEFINITION. The named operations that the meanings share: the Register Map (20_memory.md R50, R51), the updates of each
field, the encoder's two reply frames (40_frame_codec.md R106, R107), taking an exception (60_exceptions.md R205), the
setpoint handler (42_write_requests.md R152) and taking the host's next input. -/

namespace Sys2Proof.Machine

/-! ### The Register Map -/

/-- `RM[i]`. -/
def Memory.read : Memory → Nat → Word
  | [], _ => 0
  | (j, w) :: m, i => if i = j then w else Memory.read m i

/-- `RM[i] <- v`, keeping the canonical form: a slot that gets `0x0000` is not listed. -/
def Memory.write : Memory → Nat → Word → Memory
  | [], i, v => if v = 0 then [] else [(i, v)]
  | (j, w) :: m, i, v =>
    if i < j then (if v = 0 then (j, w) :: m else (i, v) :: (j, w) :: m)
    else if i = j then (if v = 0 then m else (i, v) :: m)
    else (j, w) :: Memory.write m i v

/-! ### One update per field that a rule writes -/

/-- new Register Map -/
def State.setRm (s : State) (m : Memory) : State := { s with rm := m }
/-- `soc <- x` -/
def State.setSoc (s : State) (x : Rat) : State := { s with soc := x }
/-- `mode <- m` -/
def State.setMode (s : State) (m : Mode) : State := { s with mode := m }
/-- `rate <- x` -/
def State.setRate (s : State) (x : Rat) : State := { s with rate := x }
/-- `SP <- raw` -/
def State.setSp (s : State) (raw : Word) : State := { s with sp := raw }
/-- `dbg <- b` -/
def State.setDbg (s : State) (b : Bool) : State := { s with dbg := b }
/-- the host's next inputs -/
def State.setInputs (s : State) (l : List Input) : State := { s with inputs := l }
/-- `reply R` (R10): the reply leaves on `RSP` after the ones before it (R109) -/
def State.reply (s : State) (r : Reply) : State := { s with rsp := s.rsp ++ [r] }

/-- `RegRead(i)` (R50). -/
def State.regRead (s : State) (i : Nat) : Word := if i < s.cfg.regmapN then s.rm.read i else 0

/-- `RegWrite(i, v)` (R51): an index out of range changes nothing. -/
def State.regWrite (s : State) (i : Nat) (v : Word) : State :=
  if i < s.cfg.regmapN then s.setRm (s.rm.write i v) else s

/-! ### The encoder -/

/-- `SuccessFrame(F, L, v)` (R106): the declared frame with its value field replaced. -/
def successFrame (F : Frame) (v : Word) : Frame := memWrite16 (F.take (6 + frameLen F)) 10 v

/-- `ExcFrame(F, code)` (R107). -/
def excFrame (F : Frame) (code : ExcCode) : Frame :=
  [memRead8 F 0, memRead8 F 1, memRead8 F 2, memRead8 F 3, 0x00#8, 0x03#8, memRead8 F 6, memRead8 F 7 ||| 0x80#8, code.toByte]

/-- The end of a served transaction (R105, R106): the reply carries what the Register Map holds in `slot` after the
dispatcher has written it. -/
def State.succeed (s : State) (F : Frame) (slot : Nat) : State := s.reply (.frame (successFrame F (s.regRead slot)))

/-- Taking an exception, `raise E` (R10, R205): no state is saved or changed and no mode changes; the exception frame leaves on
`RSP` and the transaction ends. There is no handler and no return operation (R206). -/
def State.raiseExc (s : State) (F : Frame) (code : ExcCode) : State := s.reply (.frame (excFrame F code))

/-! ### The battery unit's setpoint handler -/

/-- `SetPowerSetpoint(raw)` (R152 to R155). -/
def State.setPowerSetpoint (s : State) (raw : Word) : State :=
  ((s.setSp raw).setMode (setpointMode raw)).setRate (setpointRate s.cfg raw)

/-! ### The host's next input -/

/-- The next input, decoded, and the state in which it is executed: that input has been handed in (R58, R59). -/
def State.nextInstr (s : State) : Option (Instr × State) :=
  match s.inputs with
  | [] => none
  | inp :: rest => some (decodeInput s.cfg inp, s.setInputs rest)

end Sys2Proof.Machine
end

