-- ==== Sys2Proof/Machine/Codec.lean ====
section
/-! DEFINITION. The three kinds that the decoder alone decides (40_frame_codec.md R101 to R103). The dispatcher is not
entered and no state is written (R110). -/

namespace Sys2Proof.Machine

/-- NO_REPLY (R101). -/
def execNoReply (_bytes : Frame) (s : State) : Host.Outcome State Fault Refusal := .next (s.reply .noReply)

/-- UNSUPPORTED_FC (R102): IllegalFunction, whatever the data. -/
def execUnsupportedFc (hdr : Header) (len : Word) (fc : Byte) (data : Frame) (s : State) : Host.Outcome State Fault Refusal :=
  .next (s.raiseExc (headerBytes hdr len fc ++ data) .illegalFunction)

/-- TRUNCATED (R103): the code is the parameter `TRUNC_EXC`. -/
def execTruncated (hdr : Header) (len : Word) (fc : FunctionCode) (data : Frame) (s : State) :
    Host.Outcome State Fault Refusal :=
  .next (s.raiseExc (headerBytes hdr len fc.toByte ++ data) s.cfg.truncExc)

end Sys2Proof.Machine
end

