-- ==== Sys2Proof/Machine/Events.lean ====
section
/-! DEFINITION. The two events that are not frames: TICK (43_tick.md R180 to R183) and RESET (70_reset_and_hazards.md R230). -/

namespace Sys2Proof.Machine

/-- TICK (R180): moves `soc` by `rate`, and past a bound clamps it and goes Idle. No reply (R185). -/
def execTick (s : State) : Host.Outcome State Fault Refusal :=
  match s.mode with
  | .charging => .next ((s.setSoc (chargingTick s.soc s.rate).1).setMode (chargingTick s.soc s.rate).2)
  | .discharging => .next ((s.setSoc (dischargingTick s.soc s.rate).1).setMode (dischargingTick s.soc s.rate).2)
  | .idle => .next s

/-- RESET (R230): every state element to its reset value. The configuration stays (R33); the host's later inputs and the
replies that have already left are not state of the block and stay (logs 2, 3). -/
def execReset (s : State) : Host.Outcome State Fault Refusal :=
  .next { cfg := s.cfg, rm := [], soc := 50, mode := .idle, rate := 0, sp := 0, dbg := false, inputs := s.inputs, rsp := s.rsp }

end Sys2Proof.Machine
end

