-- ==== Sys2Proof/Machine/Read.lean ====
section
/-! DEFINITION. Read Holding Registers (41_read_requests.md R130 to R135). -/

namespace Sys2Proof.Machine

/-- READ_SOC (R131): `RM[ADDR_SOC] <- SocValue(soc)`, and the reply carries the slot. -/
def execReadSoc (hdr : Header) (value : Word) (extra : Frame) (s : State) : Host.Outcome State Fault Refusal :=
  .next ((s.regWrite s.cfg.addrSoc.toNat (socValue s.soc)).succeed
    (requestFrame hdr .readHolding s.cfg.addrSoc value extra) s.cfg.addrSoc.toNat)

/-- READ_PTD (R132): `RM[ADDR_PTD] <- SP`, and the reply carries the slot. -/
def execReadPtd (hdr : Header) (value : Word) (extra : Frame) (s : State) : Host.Outcome State Fault Refusal :=
  .next ((s.regWrite s.cfg.addrPtd.toNat s.sp).succeed
    (requestFrame hdr .readHolding s.cfg.addrPtd value extra) s.cfg.addrPtd.toNat)

/-- READ_ILLEGAL (R133): IllegalDataAddress. -/
def execReadIllegal (hdr : Header) (address value : Word) (extra : Frame) (s : State) : Host.Outcome State Fault Refusal :=
  .next (s.raiseExc (requestFrame hdr .readHolding address value extra) .illegalDataAddress)

end Sys2Proof.Machine
end

