-- ==== Sys2Proof/Machine/Write.lean ====
section
/-! DEFINITION. Write Single Register (42_write_requests.md R150 to R158). -/

namespace Sys2Proof.Machine

/-- WRITE_PTD (R151): the setpoint handler, then `RM[ADDR_PTD] <- SP`, and the reply carries the slot. -/
def execWritePtd (hdr : Header) (value : Word) (extra : Frame) (s : State) : Host.Outcome State Fault Refusal :=
  let s1 := s.setPowerSetpoint value
  .next ((s1.regWrite s.cfg.addrPtd.toNat s1.sp).succeed
    (requestFrame hdr .writeSingle s.cfg.addrPtd value extra) s.cfg.addrPtd.toNat)

/-- WRITE_DBG (R157): `dbg` inverts whatever the value field holds, slot 0 mirrors it, and the reply carries slot 0. -/
def execWriteDbg (hdr : Header) (value : Word) (extra : Frame) (s : State) : Host.Outcome State Fault Refusal :=
  let s1 := s.setDbg (toggleDbg s.dbg)
  .next ((s1.regWrite dbgSlot (flagWord s1.dbg)).succeed
    (requestFrame hdr .writeSingle s.cfg.addrDbg value extra) dbgSlot)

/-- WRITE_ILLEGAL (R158): IllegalDataAddress. -/
def execWriteIllegal (hdr : Header) (address value : Word) (extra : Frame) (s : State) : Host.Outcome State Fault Refusal :=
  .next (s.raiseExc (requestFrame hdr .writeSingle address value extra) .illegalDataAddress)

end Sys2Proof.Machine
end

