-- ==== Sys2Proof/Machine/Dispatch.lean ====
section
/-! DEFINITION. One arm per row of spec/opcode_table.json, each one direct call of that instruction's meaning. -/

namespace Sys2Proof.Machine

/-- What executing an instruction does. -/
def exec (i : Instr) (s : State) : Host.Outcome State Fault Refusal :=
  match i with
  | .noReply bytes => Sys2Proof.Machine.execNoReply bytes s
  | .unsupportedFc hdr len fc data => Sys2Proof.Machine.execUnsupportedFc hdr len fc data s
  | .truncated hdr len fc data => Sys2Proof.Machine.execTruncated hdr len fc data s
  | .readSoc hdr value extra => Sys2Proof.Machine.execReadSoc hdr value extra s
  | .readPtd hdr value extra => Sys2Proof.Machine.execReadPtd hdr value extra s
  | .readIllegal hdr address value extra => Sys2Proof.Machine.execReadIllegal hdr address value extra s
  | .writePtd hdr value extra => Sys2Proof.Machine.execWritePtd hdr value extra s
  | .writeDbg hdr value extra => Sys2Proof.Machine.execWriteDbg hdr value extra s
  | .writeIllegal hdr address value extra => Sys2Proof.Machine.execWriteIllegal hdr address value extra s
  | .tick => Sys2Proof.Machine.execTick s
  | .reset => Sys2Proof.Machine.execReset s

end Sys2Proof.Machine
end

