-- ==== Sys2Proof/Machine/Step.lean ====
section
/-! DEFINITION. One step of the machine: one whole transaction, one tick or one reset (00_scope.md R5), taken in the order in
which the host hands them in (20_memory.md R59). -/

namespace Sys2Proof.Machine

/-- A configuration that is not well formed has no run (R7). With nothing handed in, the block waits unchanged (R232, log 2). -/
def step (s : State) : Host.Outcome State Fault Refusal :=
  if s.cfg.wf then
    match s.nextInstr with
    | none => .next s
    | some (i, t) => exec i t
  else .refused .illFormedConfig

/-- `s` with the frame of a word of spec/opcode_table.json handed in before everything else, so that the very next step
decodes and runs it (log 5). -/
def State.withFetchWord (s : State) (nbits w : Nat) : State := s.setInputs (.frame (tableFrame nbits w) :: s.inputs)

end Sys2Proof.Machine
end

