-- ==== Sys2Proof/Machine/Transaction.lean ====
section
/-! DEFINITION. The request agent's step as the spec's pseudocode writes it, over the bytes of the frame: `Transaction` of
40_frame_codec.md R100, `HandleRead` of 41_read_requests.md R130 and `HandleWrite` of 42_write_requests.md R150. The machine
does not run this; it is the reference that decoding and executing is held against. -/

namespace Sys2Proof.Machine

/-- What a handler returns (R105). -/
inductive HandlerResult where
  /-- the slot that holds the result -/
  | success (slot : Nat)
  | exc (code : ExcCode)
  deriving DecidableEq, Repr

/-- `HandleRead(address, placeholderValue)` (R130). -/
def handleRead (address _placeholderValue : Word) (s : State) : HandlerResult × State :=
  if address = s.cfg.addrSoc then
    (.success s.cfg.addrSoc.toNat, s.regWrite s.cfg.addrSoc.toNat (socValue s.soc))
  else if address = s.cfg.addrPtd then
    (.success s.cfg.addrPtd.toNat, s.regWrite s.cfg.addrPtd.toNat s.sp)
  else (.exc .illegalDataAddress, s)

/-- `HandleWrite(address, value)` (R150). -/
def handleWrite (address value : Word) (s : State) : HandlerResult × State :=
  if address = s.cfg.addrDbg then
    let s1 := s.setDbg (toggleDbg s.dbg)
    (.success 0, s1.regWrite 0 (flagWord s1.dbg))
  else if address = s.cfg.addrPtd then
    let s1 := s.setPowerSetpoint value
    (.success s.cfg.addrPtd.toNat, s1.regWrite s.cfg.addrPtd.toNat s1.sp)
  else (.exc .illegalDataAddress, s)

/-- The end of R100: the outcome turned into the reply. -/
def replyResult (F : Frame) : HandlerResult × State → State
  | (.success slot, s) => s.reply (.frame (successFrame F (s.regRead slot)))
  | (.exc code, s) => s.reply (.frame (excFrame F code))

/-- `Transaction(F, n)` (R100), its checks in exactly that order. -/
def transaction (F : Frame) (s : State) : State :=
  if F.length < 8 then s.reply .noReply
  else if (memRead16 F 4).toNat < 2 then s.reply .noReply
  else if memRead8 F 7 ≠ 0x03#8 ∧ memRead8 F 7 ≠ 0x06#8 then s.reply (.frame (excFrame F .illegalFunction))
  else if (memRead16 F 4).toNat < 6 ∨ F.length < 6 + (memRead16 F 4).toNat then
    s.reply (.frame (excFrame F s.cfg.truncExc))
  else if memRead8 F 7 = 0x03#8 then replyResult F (handleRead (memRead16 F 8) (memRead16 F 10) s)
  else replyResult F (handleWrite (memRead16 F 8) (memRead16 F 10) s)

end Sys2Proof.Machine
end

