-- ==== Sys2Proof/Safety.lean ====
section
/-! DEFINITION. What counts as a good state: the facts of the spec's prose that hold in every reachable state. -/

namespace Sys2Proof.Machine

/-- The facts about a state that reset establishes and every step keeps. -/
structure Inv (s : State) : Prop where
  /-- the configuration is well formed (00_scope.md R7) -/
  config : s.cfg.wf = true
  /-- the Register Map is in canonical form -/
  memory : Memory.wf s.rm = true
  /-- every slot but 0, `ADDR_SOC` and `ADDR_PTD` holds its reset value (10_state.md R22) -/
  otherSlots : ∀ i, i ≠ 0 → i ≠ s.cfg.addrSoc.toNat → i ≠ s.cfg.addrPtd.toNat → s.rm.read i = 0
  /-- slot 0 mirrors the debug flag (R21) -/
  debugMirror : s.rm.read 0 = flagWord s.dbg
  /-- slot `ADDR_PTD` mirrors the setpoint (R21, R233) -/
  setpointMirror : s.rm.read s.cfg.addrPtd.toNat = s.sp
  /-- slot `ADDR_SOC` never holds more than 1000 (R29) -/
  socSlot : (s.rm.read s.cfg.addrSoc.toNat).toNat ≤ 1000
  /-- R29 -/
  socLow : 0 ≤ s.soc
  /-- R29 -/
  socHigh : s.soc ≤ 100
  /-- `rate` is the rate of the last setpoint: only the setpoint handler writes either (R26, R27) -/
  rateOfSetpoint : s.rate = setpointRate s.cfg s.sp
  /-- `mode` is the mode of the last setpoint, or Idle once a bound has been passed (R25) -/
  modeOfSetpoint : s.mode = setpointMode s.sp ∨ s.mode = .idle

/-- `k` steps of the machine, stopping at the first refusal (Host/Core.lean). -/
def run (k : Nat) (s : State) : Host.Outcome State Fault Refusal := Host.Core.run Sys2Proof.core k s

/-- The machine after reset under configuration `c`, with the host about to hand in `l` (20_memory.md R59: any sequence). -/
def State.initWith (c : Config) (l : List Input) : State := (State.init c).setInputs l

end Sys2Proof.Machine
end

