-- ==== Sys2Proof/Certificates/Slice0/Obligations.lean ====
section
/-! DEFINITION. The statements about the model, each with the rule of spec/ that it formalises. -/

open Sys2Proof Sys2Proof.Machine

/-! ### Encoding and decoding -/

/-- 30_encoding.md R70 to R77: decoding what the encoder writes for a well-formed instruction gives the instruction back, with
every operand at every value a frame can spell. -/
def Obligations.DecodeEncodeRoundTrip : Prop :=
  ∀ (c : Config) (i : Instr), c.wf = true → i.wellFormed c = true → decodeInput c (encode c i) = i

/-- The other direction: encoding what a frame decodes to gives the frame back, less the bytes after `5 + L` of a complete
frame of a supported function code, which are not decoded (40_frame_codec.md R111). -/
def Obligations.EncodeDecodeGivesDeclaredFrame : Prop :=
  ∀ (c : Config) (F : Frame), encode c (decode c F) = .frame
    (if 8 ≤ F.length ∧ 6 ≤ frameLen F ∧ 6 + frameLen F ≤ F.length ∧ (memRead8 F 7 = 0x03#8 ∨ memRead8 F 7 = 0x06#8)
      then F.take (6 + frameLen F) else F)

/-- 30_encoding.md R78: the decoder is total, and what it gives is an instruction that some input spells. -/
def Obligations.DecodedInputIsWellFormed : Prop :=
  ∀ (c : Config) (inp : Input), (decodeInput c inp).wellFormed c = true

/-- R77, the request map: every frame selects exactly one kind, the conditions applied in the order of R100; TICK and RESET have
no frame. -/
def Obligations.RequestMapSelectsKind : Prop :=
  ∀ (c : Config) (F : Frame), c.wf = true →
    let n := F.length
    let L := (memRead16 F 4).toNat
    let hdr : Header := { tid := memRead16 F 0, pid := memRead16 F 2, uid := memRead8 F 6 }
    let fc := memRead8 F 7
    let address := memRead16 F 8
    let value := memRead16 F 10
    let extra := (F.take (6 + L)).drop 12
    (n < 8 ∨ L < 2 → decode c F = .noReply F)
    ∧ (8 ≤ n → 2 ≤ L → fc ≠ 0x03#8 → fc ≠ 0x06#8 → decode c F = .unsupportedFc hdr (memRead16 F 4) fc (F.drop 8))
    ∧ (8 ≤ n → 2 ≤ L → fc = 0x03#8 → L < 6 ∨ n < 6 + L → decode c F = .truncated hdr (memRead16 F 4) .readHolding (F.drop 8))
    ∧ (8 ≤ n → 2 ≤ L → fc = 0x06#8 → L < 6 ∨ n < 6 + L → decode c F = .truncated hdr (memRead16 F 4) .writeSingle (F.drop 8))
    ∧ (6 ≤ L → 6 + L ≤ n → fc = 0x03#8 → address = c.addrSoc → decode c F = .readSoc hdr value extra)
    ∧ (6 ≤ L → 6 + L ≤ n → fc = 0x03#8 → address = c.addrPtd → decode c F = .readPtd hdr value extra)
    ∧ (6 ≤ L → 6 + L ≤ n → fc = 0x03#8 → address ≠ c.addrSoc → address ≠ c.addrPtd →
        decode c F = .readIllegal hdr address value extra)
    ∧ (6 ≤ L → 6 + L ≤ n → fc = 0x06#8 → address = c.addrPtd → decode c F = .writePtd hdr value extra)
    ∧ (6 ≤ L → 6 + L ≤ n → fc = 0x06#8 → address = c.addrDbg → decode c F = .writeDbg hdr value extra)
    ∧ (6 ≤ L → 6 + L ≤ n → fc = 0x06#8 → address ≠ c.addrPtd → address ≠ c.addrDbg →
        decode c F = .writeIllegal hdr address value extra)
    ∧ decode c F ≠ .tick ∧ decode c F ≠ .reset

/-- Frames written out byte by byte from R70 and 95_test_vectors.md, under EX: one of each kind. -/
def Obligations.WrittenOutFramesDecode : Prop :=
  decode Config.ex [0x00, 0x01, 0x00, 0x00, 0x00, 0x06, 0x01, 0x03, 0x00, 0x01, 0x00, 0x01] = .readSoc ⟨1, 0, 1⟩ 1 []
  ∧ decode Config.ex [0x00, 0x02, 0xAB, 0xCD, 0x00, 0x06, 0xFF, 0x03, 0x00, 0x02, 0x12, 0x34] = .readPtd ⟨2, 0xABCD, 0xFF⟩ 0x1234 []
  ∧ decode Config.ex [0x00, 0x01, 0x00, 0x00, 0x00, 0x06, 0x01, 0x03, 0x00, 0x63, 0x00, 0x01] = .readIllegal ⟨1, 0, 1⟩ 0x63 1 []
  ∧ decode Config.ex [0x00, 0x09, 0x00, 0x00, 0x00, 0x07, 0x01, 0x06, 0x00, 0x02, 0xFF, 0x1A, 0x55] = .writePtd ⟨9, 0, 1⟩ 0xFF1A [0x55]
  ∧ decode Config.ex [0x00, 0x01, 0x00, 0x00, 0x00, 0x06, 0x01, 0x06, 0x00, 0x00, 0x12, 0x34] = .writeDbg ⟨1, 0, 1⟩ 0x1234 []
  ∧ decode Config.ex [0x00, 0x01, 0x00, 0x00, 0x00, 0x06, 0x01, 0x06, 0x00, 0x01, 0x00, 0x64] = .writeIllegal ⟨1, 0, 1⟩ 1 0x64 []
  ∧ decode Config.ex [0x00, 0x08, 0x00, 0x00, 0x00, 0x04, 0x01, 0x03, 0x00, 0x01] = .truncated ⟨8, 0, 1⟩ 4 .readHolding [0x00, 0x01]
  ∧ decode Config.ex [0x00, 0x03, 0x00, 0x00, 0x00, 0x02, 0x01, 0x10] = .unsupportedFc ⟨3, 0, 1⟩ 2 0x10 []
  ∧ decode Config.ex [0x00, 0x0A, 0x00, 0x00, 0x00, 0x01, 0x01] = .noReply [0x00, 0x0A, 0x00, 0x00, 0x00, 0x01, 0x01]

/-- 40_frame_codec.md R111: bytes of the buffer after byte `5 + L` play no part in the transaction. -/
def Obligations.BytesAfterDeclaredFrameIgnored : Prop :=
  ∀ (s : State) (F junk : Frame), 6 + frameLen F ≤ F.length →
    exec (decode s.cfg (F ++ junk)) s = exec (decode s.cfg F) s

/-! ### The step -/

/-- 00_scope.md R5, 20_memory.md R58, R59: with a well-formed configuration, a step takes the host's next input and is the
execution of the instruction it decodes to, in the state from which that input has been taken. -/
def Obligations.StepRunsDecodedInput : Prop :=
  ∀ (s : State) (inp : Input) (rest : List Input), s.cfg.wf = true → s.inputs = inp :: rest →
    step s = exec (decodeInput s.cfg inp) { s with inputs := rest }

/-- With nothing handed in, the block waits unchanged (70_reset_and_hazards.md R232). That a step exists then is the model's
choice, log 2. -/
def Obligations.StepWithoutInputWaits : Prop :=
  ∀ (s : State), s.cfg.wf = true → s.inputs = [] → step s = .next s

/-- 00_scope.md R7: the step refuses exactly the configurations that are not well formed, whatever the rest of the state. The
last line is the range that R6 gives `REGMAP_N`; that it counts as a condition of well-formedness is the model's reading,
log 12. -/
def Obligations.IllFormedConfigHasNoRun : Prop :=
  ∀ (s : State), step s = .refused .illFormedConfig ↔
    ¬ (s.cfg.addrSoc ≠ s.cfg.addrPtd ∧ s.cfg.addrSoc ≠ s.cfg.addrDbg ∧ s.cfg.addrPtd ≠ s.cfg.addrDbg
      ∧ 1 ≤ s.cfg.addrSoc.toNat ∧ s.cfg.addrSoc.toNat < s.cfg.regmapN
      ∧ 1 ≤ s.cfg.addrPtd.toNat ∧ s.cfg.addrPtd.toNat < s.cfg.regmapN
      ∧ s.cfg.addrSoc ≠ 0x0063#16 ∧ s.cfg.addrPtd ≠ 0x0063#16
      ∧ 0 < s.cfg.pKw ∧ 0 < s.cfg.tChg ∧ 0 < s.cfg.tDis
      ∧ 1 ≤ s.cfg.regmapN ∧ s.cfg.regmapN ≤ 65536)

/-- 60_exceptions.md R207 (nothing after reset is fatal), R206: with a well-formed configuration a run of any length, over any
inputs, goes on. -/
def Obligations.RunNeverStops : Prop :=
  ∀ (s : State) (k : Nat), s.cfg.wf = true → ∃ t, run k s = .next t

/-- 10_state.md R33: no instruction writes the configuration; and none takes or adds an input of the host. -/
def Obligations.ConfigurationIsConstant : Prop :=
  ∀ (i : Instr) (s t : State), exec i s = .next t → t.cfg = s.cfg ∧ t.inputs = s.inputs

/-- 40_frame_codec.md R100 with 41_read_requests.md R130 and 42_write_requests.md R150: decoding a frame and executing the
instruction is the transaction that the spec's pseudocode writes. -/
def Obligations.ExecutionRefinesTransaction : Prop :=
  ∀ (s : State) (F : Frame), exec (decode s.cfg F) s = .next (transaction F s)

/-! ### The Register Map -/

/-- 20_memory.md R50, R51: the range-checked access of the Register Map, and that a well-formed configuration keeps every index
the dispatcher passes in range. -/
def Obligations.RegisterAccessIsRangeChecked : Prop :=
  (∀ (s : State) (i : Nat) (v : Word), Memory.wf s.rm = true → i < s.cfg.regmapN →
      s.regRead i = s.rm.read i ∧ (s.regWrite i v).regRead i = v
      ∧ (∀ j, j ≠ i → (s.regWrite i v).regRead j = s.regRead j) ∧ ∃ m, s.regWrite i v = { s with rm := m })
  ∧ (∀ (s : State) (i : Nat) (v : Word), s.cfg.regmapN ≤ i → s.regRead i = 0 ∧ s.regWrite i v = s)
  ∧ (∀ c : Config, c.wf = true → 0 < c.regmapN ∧ c.addrSoc.toNat < c.regmapN ∧ c.addrPtd.toNat < c.regmapN)

/-- The model's canonical form of the Register Map (log 4): equal contents are equal data. -/
def Obligations.EqualRegisterMapsAreEqualData : Prop :=
  ∀ m n : Memory, Memory.wf m = true → Memory.wf n = true → (∀ i, m.read i = n.read i) → m = n

/-! ### The reply frames -/

/-- 30_encoding.md R82, R80 and 40_frame_codec.md R107: the nine bytes of an exception reply. -/
def Obligations.ExceptionReplyLayout : Prop :=
  ∀ (F : Frame) (code : ExcCode), 8 ≤ F.length →
    (excFrame F code).length = 9
    ∧ (∀ i, i < 4 → memRead8 (excFrame F code) i = memRead8 F i)
    ∧ memRead16 (excFrame F code) 4 = 0x0003#16
    ∧ memRead8 (excFrame F code) 6 = memRead8 F 6
    ∧ (∀ j, j < 7 → (memRead8 (excFrame F code) 7).getLsbD j = (memRead8 F 7).getLsbD j)
    ∧ (memRead8 (excFrame F code) 7)[7] = true
    ∧ ((memRead8 F 7)[7] = true → memRead8 (excFrame F code) 7 = memRead8 F 7)
    ∧ memRead8 (excFrame F code) 8 = (match code with | .illegalFunction => 0x01#8 | .illegalDataAddress => 0x02#8)

/-- 30_encoding.md R81: a success reply has exactly the declared length and is the request frame with its value field replaced. -/
def Obligations.SuccessReplyLayout : Prop :=
  ∀ (F : Frame) (v : Word), 6 ≤ frameLen F → 6 + frameLen F ≤ F.length →
    (successFrame F v).length = 6 + frameLen F
    ∧ memRead16 (successFrame F v) 4 = memRead16 F 4
    ∧ memRead8 (successFrame F v) 10 = v.extractLsb' 8 8
    ∧ memRead8 (successFrame F v) 11 = v.extractLsb' 0 8
    ∧ ∀ i, i < 6 + frameLen F → i ≠ 10 → i ≠ 11 → memRead8 (successFrame F v) i = memRead8 F i

/-! ### The kinds that the decoder decides -/

/-- 40_frame_codec.md R101, NO_REPLY: which frames, that the instruction completes, and that it writes no state. That the record
of the port gets an entry `noReply`, where `RSP` receives nothing, is the model's choice, log 3. -/
def Obligations.NoReplyResult : Prop :=
  (∀ (c : Config) (F : Frame), F.length < 8 ∨ (8 ≤ F.length ∧ (memRead16 F 4).toNat < 2) → decode c F = .noReply F)
  ∧ ∀ (F : Frame) (s : State), exec (.noReply F) s = .next { s with rsp := s.rsp ++ [.noReply] }

/-- R102, UNSUPPORTED_FC: which frames, that the instruction completes with IllegalFunction, and that no state is written. -/
def Obligations.UnsupportedFcResult : Prop :=
  (∀ (s : State) (F : Frame), 8 ≤ F.length → 2 ≤ (memRead16 F 4).toNat → memRead8 F 7 ≠ 0x03#8 → memRead8 F 7 ≠ 0x06#8 →
    exec (decode s.cfg F) s = .next { s with rsp := s.rsp ++ [.frame [memRead8 F 0, memRead8 F 1, memRead8 F 2, memRead8 F 3,
      0x00, 0x03, memRead8 F 6, memRead8 F 7 ||| 0x80, 0x01]] })
  ∧ ∀ (hdr : Header) (len : Word) (fc : Byte) (data : Frame) (s : State),
    exec (.unsupportedFc hdr len fc data) s = .next { s with rsp := s.rsp ++ [.frame (wordBytes hdr.tid ++ wordBytes hdr.pid
      ++ [0x00, 0x03, hdr.uid, fc ||| 0x80, 0x01])] }

/-- R103, TRUNCATED: which frames, that the instruction completes with the code `TRUNC_EXC`, and that no state is written. -/
def Obligations.TruncatedResult : Prop :=
  (∀ (s : State) (F : Frame), 8 ≤ F.length → 2 ≤ (memRead16 F 4).toNat → memRead8 F 7 = 0x03#8 ∨ memRead8 F 7 = 0x06#8 →
    (memRead16 F 4).toNat < 6 ∨ F.length < 6 + (memRead16 F 4).toNat →
    exec (decode s.cfg F) s = .next { s with rsp := s.rsp ++ [.frame [memRead8 F 0, memRead8 F 1, memRead8 F 2, memRead8 F 3,
      0x00, 0x03, memRead8 F 6, memRead8 F 7 ||| 0x80, s.cfg.truncExc.toByte]] })
  ∧ ∀ (hdr : Header) (len : Word) (fc : FunctionCode) (data : Frame) (s : State),
    exec (.truncated hdr len fc data) s = .next { s with rsp := s.rsp ++ [.frame (wordBytes hdr.tid ++ wordBytes hdr.pid
      ++ [0x00, 0x03, hdr.uid, fc.toByte ||| 0x80, s.cfg.truncExc.toByte])] }

/-- 60_exceptions.md R203: a frame reports the first outcome, in the order NO_REPLY, IllegalFunction, truncated frame,
IllegalDataAddress, whose condition it meets. -/
def Obligations.OutcomePriority : Prop :=
  ∀ (s t : State) (F : Frame), exec (decode s.cfg F) s = .next t →
    let n := F.length
    let L := (memRead16 F 4).toNat
    let fc := memRead8 F 7
    let address := memRead16 F 8
    let short := n < 8 ∨ L < 2
    let unsupported := fc ≠ 0x03#8 ∧ fc ≠ 0x06#8
    let truncated := L < 6 ∨ n < 6 + L
    let unknown := (fc = 0x03#8 ∧ address ≠ s.cfg.addrSoc ∧ address ≠ s.cfg.addrPtd)
      ∨ (fc = 0x06#8 ∧ address ≠ s.cfg.addrPtd ∧ address ≠ s.cfg.addrDbg)
    (short → t.rsp = s.rsp ++ [.noReply])
    ∧ (¬ short → unsupported → t.rsp = s.rsp ++ [.frame (excFrame F .illegalFunction)])
    ∧ (¬ short → ¬ unsupported → truncated → t.rsp = s.rsp ++ [.frame (excFrame F s.cfg.truncExc)])
    ∧ (¬ short → ¬ unsupported → ¬ truncated → unknown → t.rsp = s.rsp ++ [.frame (excFrame F .illegalDataAddress)])
    ∧ (¬ short → ¬ unsupported → ¬ truncated → ¬ unknown → ∃ v, t.rsp = s.rsp ++ [.frame (successFrame F v)])

/-- The frames that 60_exceptions.md R202 names decode to the two kinds that raise IllegalDataAddress, and none that fails an
earlier check does. `ReadIllegalResult` and `WriteIllegalResult` say what executing these kinds does. -/
def Obligations.IllegalDataAddressCause : Prop :=
  ∀ (c : Config) (F : Frame),
    ((∃ hdr a v extra, decode c F = .readIllegal hdr a v extra) ∨ (∃ hdr a v extra, decode c F = .writeIllegal hdr a v extra)) ↔
      (8 ≤ F.length ∧ 6 ≤ (memRead16 F 4).toNat ∧ 6 + (memRead16 F 4).toNat ≤ F.length
      ∧ ((memRead8 F 7 = 0x03#8 ∧ memRead16 F 8 ≠ c.addrSoc ∧ memRead16 F 8 ≠ c.addrPtd)
        ∨ (memRead8 F 7 = 0x06#8 ∧ memRead16 F 8 ≠ c.addrPtd ∧ memRead16 F 8 ≠ c.addrDbg)))

/-- 40_frame_codec.md R110, 60_exceptions.md R205: a transaction that ends in NoReply or in an exception frame writes no state:
the step takes the frame, and that reply leaves. Every transaction that is not one of the four served kinds ends so. -/
def Obligations.RejectedTransactionWritesNoState : Prop :=
  ∀ (s t : State) (F : Frame) (rest : List Input), s.inputs = .frame F :: rest → step s = .next t →
    ((∀ hdr v extra, decode s.cfg F ≠ .readSoc hdr v extra ∧ decode s.cfg F ≠ .readPtd hdr v extra
        ∧ decode s.cfg F ≠ .writePtd hdr v extra ∧ decode s.cfg F ≠ .writeDbg hdr v extra) →
      t.rsp = s.rsp ++ [.noReply] ∨ ∃ code, t.rsp = s.rsp ++ [.frame (excFrame F code)])
    ∧ ((t.rsp = s.rsp ++ [.noReply] ∨ ∃ G code, t.rsp = s.rsp ++ [.frame (excFrame G code)]) →
      t = { s with inputs := rest, rsp := t.rsp })

/-- R109: every frame gets exactly one reply, and replies leave in the order of the frames. -/
def Obligations.RepliesFollowFrames : Prop :=
  ∀ (s : State) (Fs : List Frame), s.cfg.wf = true → s.inputs = Fs.map .frame →
    ∃ rs : List Reply, rs.length = Fs.length ∧ ∀ k, k ≤ Fs.length →
      ∃ t, run k s = .next t ∧ t.rsp = s.rsp ++ rs.take k ∧ t.inputs = (Fs.drop k).map .frame

/-! ### Read Holding Registers -/

/-- R131, READ_SOC: which frames, the slot and the reply, and that nothing else is written; a second READ_SOC with no tick
between replies the same value. -/
def Obligations.ReadSocResult : Prop :=
  (∀ (c : Config) (F : Frame), 6 ≤ frameLen F → 6 + frameLen F ≤ F.length → memRead8 F 7 = 0x03#8 → memRead16 F 8 = c.addrSoc →
    decode c F = .readSoc { tid := memRead16 F 0, pid := memRead16 F 2, uid := memRead8 F 6 } (memRead16 F 10)
      ((F.take (6 + frameLen F)).drop 12))
  ∧ (∀ (hdr hdr' : Header) (v v' : Word) (extra extra' : Frame) (s : State), s.cfg.wf = true → Memory.wf s.rm = true →
    extra.length + 6 < 65536 → extra'.length + 6 < 65536 →
    ∃ t u, exec (.readSoc hdr v extra) s = .next t ∧ exec (.readSoc hdr' v' extra') t = .next u
      ∧ t = { s with
        rm := t.rm
        rsp := s.rsp ++ [.frame (wordBytes hdr.tid ++ wordBytes hdr.pid ++ wordBytes (BitVec.ofNat 16 (6 + extra.length))
          ++ [hdr.uid, 0x03] ++ wordBytes s.cfg.addrSoc ++ wordBytes (socValue s.soc) ++ extra)] }
      ∧ (∀ i, t.rm.read i = if i = s.cfg.addrSoc.toNat then socValue s.soc else s.rm.read i)
      ∧ u = { t with
        rsp := t.rsp ++ [.frame (wordBytes hdr'.tid ++ wordBytes hdr'.pid ++ wordBytes (BitVec.ofNat 16 (6 + extra'.length))
          ++ [hdr'.uid, 0x03] ++ wordBytes s.cfg.addrSoc ++ wordBytes (socValue s.soc) ++ extra')] })
  ∧ socValue 50 = 0x01F4#16 ∧ socValue 100 = 0x03E8#16 ∧ socValue 0 = 0#16
  ∧ ∀ soc : Rat, 0 ≤ soc → soc ≤ 100 → (socValue soc).toNat ≤ 1000

/-- R132, READ_PTD: which frames, the slot and the reply, and that nothing else is written. The value does not depend on `mode`,
`soc` or `rate`. -/
def Obligations.ReadPtdResult : Prop :=
  (∀ (c : Config) (F : Frame), c.wf = true → 6 ≤ frameLen F → 6 + frameLen F ≤ F.length → memRead8 F 7 = 0x03#8 →
    memRead16 F 8 = c.addrPtd →
    decode c F = .readPtd { tid := memRead16 F 0, pid := memRead16 F 2, uid := memRead8 F 6 } (memRead16 F 10)
      ((F.take (6 + frameLen F)).drop 12))
  ∧ (∀ (hdr : Header) (v : Word) (extra : Frame) (s : State), s.cfg.wf = true → Memory.wf s.rm = true →
    extra.length + 6 < 65536 →
    ∃ m, exec (.readPtd hdr v extra) s = .next { s with
        rm := m
        rsp := s.rsp ++ [.frame (wordBytes hdr.tid ++ wordBytes hdr.pid ++ wordBytes (BitVec.ofNat 16 (6 + extra.length))
          ++ [hdr.uid, 0x03] ++ wordBytes s.cfg.addrPtd ++ wordBytes s.sp ++ extra)] }
      ∧ ∀ i, m.read i = if i = s.cfg.addrPtd.toNat then s.sp else s.rm.read i)
  ∧ ∀ c : Config, (State.init c).sp = 0#16

/-- R133, READ_ILLEGAL: which frames, `ADDR_DBG` and every address from `REGMAP_N` on among them; the reply is IllegalDataAddress
and no state is written. -/
def Obligations.ReadIllegalResult : Prop :=
  (∀ (c : Config) (F : Frame), c.wf = true → 6 ≤ frameLen F → 6 + frameLen F ≤ F.length → memRead8 F 7 = 0x03#8 →
    (memRead16 F 8 ≠ c.addrSoc ∧ memRead16 F 8 ≠ c.addrPtd) ∨ memRead16 F 8 = c.addrDbg ∨ memRead16 F 8 = 0#16
      ∨ c.regmapN ≤ (memRead16 F 8).toNat →
    decode c F = .readIllegal { tid := memRead16 F 0, pid := memRead16 F 2, uid := memRead8 F 6 } (memRead16 F 8)
      (memRead16 F 10) ((F.take (6 + frameLen F)).drop 12))
  ∧ ∀ (hdr : Header) (a v : Word) (extra : Frame) (s : State),
    exec (.readIllegal hdr a v extra) s = .next { s with rsp := s.rsp ++ [.frame (wordBytes hdr.tid ++ wordBytes hdr.pid
      ++ [0x00, 0x03, hdr.uid, 0x83, 0x02])] }

/-- R135: `SocValue` is the integer nearest to `10 * soc`, ties up, in `0 .. 1000`; `49.95` gives 500. -/
def Obligations.SocValueRoundsHalvesUp : Prop :=
  (∀ soc : Rat, 0 ≤ soc → soc ≤ 100 →
    (socValue soc).toNat ≤ 1000 ∧ ((socValue soc).toNat : Rat) ≤ 10 * soc + 1 / 2
    ∧ 10 * soc + 1 / 2 < ((socValue soc).toNat : Rat) + 1)
  ∧ socValue (999 / 20) = 500#16

/-- R134: the value field of a read request has no effect on any state or on the reply. -/
def Obligations.ReadValueFieldIgnored : Prop :=
  ∀ (hdr : Header) (a v w : Word) (extra : Frame) (s : State), extra.length + 6 < 65536 →
    exec (.readSoc hdr v extra) s = exec (.readSoc hdr w extra) s
    ∧ exec (.readPtd hdr v extra) s = exec (.readPtd hdr w extra) s
    ∧ exec (.readIllegal hdr a v extra) s = exec (.readIllegal hdr a w extra) s

/-- 20_memory.md R57: with no tick, no write and no reset between, two reads of StateOfCharge give equal replies, and so do two
reads of PowerToDeliver, whatever other frames stand between them. -/
def Obligations.ReadsRepeatBetweenWrites : Prop :=
  ∀ (s t : State) (F : Frame) (between : List Frame), s.cfg.wf = true → Memory.wf s.rm = true →
    s.inputs = .frame F :: (between.map .frame ++ [.frame F]) →
    (∃ hdr v extra, decode s.cfg F = .readSoc hdr v extra ∨ decode s.cfg F = .readPtd hdr v extra) →
    (∀ G ∈ between, ∀ hdr v extra, decode s.cfg G ≠ .writePtd hdr v extra ∧ decode s.cfg G ≠ .writeDbg hdr v extra) →
    run (between.length + 2) s = .next t →
    ∃ (r : Reply) (rs : List Reply), rs.length = between.length ∧ t.rsp = s.rsp ++ [r] ++ rs ++ [r]
      ∧ t.soc = s.soc ∧ t.mode = s.mode ∧ t.rate = s.rate ∧ t.sp = s.sp ∧ t.dbg = s.dbg

/-- 41_read_requests.md R131, 20_memory.md R57: two READ_SOC with no tick between reply the same value, whatever other frames, the
writes among them, stand between. -/
def Obligations.SocReadsRepeatBetweenTicks : Prop :=
  ∀ (s t : State) (F G : Frame) (between : List Frame) (hdr hdr' : Header) (v v' : Word) (extra extra' : Frame),
    s.cfg.wf = true → Memory.wf s.rm = true → s.inputs = .frame F :: (between.map .frame ++ [.frame G]) →
    decode s.cfg F = .readSoc hdr v extra → decode s.cfg G = .readSoc hdr' v' extra' →
    run (between.length + 2) s = .next t →
    ∃ rs : List Reply, rs.length = between.length
      ∧ t.rsp = s.rsp ++ [.frame (wordBytes hdr.tid ++ wordBytes hdr.pid ++ wordBytes (BitVec.ofNat 16 (6 + extra.length))
          ++ [hdr.uid, 0x03] ++ wordBytes s.cfg.addrSoc ++ wordBytes (socValue s.soc) ++ extra)] ++ rs
        ++ [.frame (wordBytes hdr'.tid ++ wordBytes hdr'.pid ++ wordBytes (BitVec.ofNat 16 (6 + extra'.length))
          ++ [hdr'.uid, 0x03] ++ wordBytes s.cfg.addrSoc ++ wordBytes (socValue s.soc) ++ extra')]

/-! ### Write Single Register -/

/-- R151, WRITE_PTD: which frames, what is written and that nothing else is, `soc` among it, and that the reply is the request
unchanged; at a bound the write is accepted and the next tick clamps and goes Idle. `SetpointBranches` says what the handler's
`setpointMode` and `setpointRate` are. -/
def Obligations.WritePtdResult : Prop :=
  (∀ (c : Config) (F : Frame), c.wf = true → 6 ≤ frameLen F → 6 + frameLen F ≤ F.length → memRead8 F 7 = 0x06#8 →
    memRead16 F 8 = c.addrPtd →
    decode c F = .writePtd { tid := memRead16 F 0, pid := memRead16 F 2, uid := memRead8 F 6 } (memRead16 F 10)
      ((F.take (6 + frameLen F)).drop 12))
  ∧ ∀ (hdr : Header) (v : Word) (extra : Frame) (s : State), s.cfg.wf = true → Memory.wf s.rm = true →
    extra.length + 6 < 65536 →
    ∃ m, exec (.writePtd hdr v extra) s = .next { s with
        rm := m, sp := v, mode := setpointMode v, rate := setpointRate s.cfg v
        rsp := s.rsp ++ [.frame (wordBytes hdr.tid ++ wordBytes hdr.pid ++ wordBytes (BitVec.ofNat 16 (6 + extra.length))
          ++ [hdr.uid, 0x06] ++ wordBytes s.cfg.addrPtd ++ wordBytes v ++ extra)] }
      ∧ (∀ i, m.read i = if i = s.cfg.addrPtd.toNat then v else s.rm.read i)
      ∧ encode s.cfg (.writePtd hdr v extra) = .frame (wordBytes hdr.tid ++ wordBytes hdr.pid
        ++ wordBytes (BitVec.ofNat 16 (6 + extra.length)) ++ [hdr.uid, 0x06] ++ wordBytes s.cfg.addrPtd ++ wordBytes v ++ extra)
      ∧ ∀ t, exec (.writePtd hdr v extra) s = .next t →
        (s.soc = 100 → v[15] = true → exec .tick t = .next { t with soc := 100, mode := .idle })
        ∧ (s.soc = 0 → v[15] = false → v ≠ 0 → exec .tick t = .next { t with soc := 0, mode := .idle })

/-- R152 to R155, the setpoint handler: what WRITE_PTD leaves in `SP`, `mode` and `rate`, in its three branches, with the
resolutions of 10_state.md R34 written out. -/
def Obligations.SetpointBranches : Prop :=
  ∀ (hdr : Header) (v : Word) (extra : Frame) (s : State),
    ∃ t, exec (.writePtd hdr v extra) s = .next t ∧ t.sp = v ∧ t.soc = s.soc
      ∧ (v[15] = true → t.mode = .charging
        ∧ t.rate = ((65536 - v.toNat : Nat) : Rat) * (100 / ((s.cfg.pKw : Rat) * (s.cfg.tChg : Rat))))
      ∧ (v[15] = false → v ≠ 0 → t.mode = .discharging
        ∧ t.rate = (v.toNat : Rat) * (100 / ((s.cfg.pKw : Rat) * (s.cfg.tDis : Rat))))
      ∧ (v = 0 → t.mode = .idle ∧ t.rate = 0)

/-- R156, the arithmetic of a setpoint: no overflow, no division by zero, no clamping to `P_KW`, and the rate is 0 only for the
setpoint 0. -/
def Obligations.SetpointArithmetic : Prop :=
  ∀ (c : Config) (raw : Word), c.wf = true →
    (c.pKw : Rat) * (c.tChg : Rat) ≠ 0 ∧ (c.pKw : Rat) * (c.tDis : Rat) ≠ 0
    ∧ 0 ≤ setpointRate c raw ∧ (setpointRate c raw = 0 ↔ raw = 0)
    ∧ (raw[15] = true → sext16 raw = -(magnitude raw : Int) ∧ 1 ≤ magnitude raw ∧ magnitude raw ≤ 32768
      ∧ setpointRate c raw = 100 * (magnitude raw : Rat) / ((c.pKw : Rat) * (c.tChg : Rat)))
    ∧ (raw[15] = false → raw ≠ 0 → sext16 raw = (raw.toNat : Int) ∧ 1 ≤ raw.toNat ∧ raw.toNat ≤ 32767
      ∧ setpointRate c raw = 100 * (raw.toNat : Rat) / ((c.pKw : Rat) * (c.tDis : Rat)))

/-- R157, WRITE_DBG: which frames; the flag inverts whatever the value, slot 0 and the `DEBUG_TRACE` output follow it, the reply
carries slot 0, and nothing else is written; a second one restores flag and slot. -/
def Obligations.WriteDbgResult : Prop :=
  (∀ (c : Config) (F : Frame), 6 ≤ frameLen F → 6 + frameLen F ≤ F.length → memRead8 F 7 = 0x06#8 → memRead16 F 8 = c.addrDbg →
    decode c F = .writeDbg { tid := memRead16 F 0, pid := memRead16 F 2, uid := memRead8 F 6 } (memRead16 F 10)
      ((F.take (6 + frameLen F)).drop 12))
  ∧ ∀ (hdr : Header) (v w : Word) (extra : Frame) (s : State), s.cfg.wf = true → Memory.wf s.rm = true →
    extra.length + 6 < 65536 →
    ∃ t u, exec (.writeDbg hdr v extra) s = .next t ∧ exec (.writeDbg hdr w extra) t = .next u
      ∧ t = { s with
        rm := t.rm, dbg := !s.dbg
        rsp := s.rsp ++ [.frame (wordBytes hdr.tid ++ wordBytes hdr.pid ++ wordBytes (BitVec.ofNat 16 (6 + extra.length))
          ++ [hdr.uid, 0x06] ++ wordBytes s.cfg.addrDbg ++ (if s.dbg then [0x00, 0x00] else [0x00, 0x01]) ++ extra)] }
      ∧ t.debugTrace = !s.debugTrace
      ∧ (∀ i, t.rm.read i = if i = 0 then (if s.dbg then 0#16 else 1#16) else s.rm.read i)
      ∧ u.dbg = s.dbg ∧ u.debugTrace = s.debugTrace ∧ (s.rm.read 0 = (if s.dbg then 1#16 else 0#16) → u.rm = s.rm)

/-- R158, WRITE_ILLEGAL: which frames, `ADDR_SOC` and every address from `REGMAP_N` on but `ADDR_DBG` among them; the reply is
IllegalDataAddress and no state is written. -/
def Obligations.WriteIllegalResult : Prop :=
  (∀ (c : Config) (F : Frame), c.wf = true → 6 ≤ frameLen F → 6 + frameLen F ≤ F.length → memRead8 F 7 = 0x06#8 →
    (memRead16 F 8 ≠ c.addrPtd ∧ memRead16 F 8 ≠ c.addrDbg) ∨ memRead16 F 8 = c.addrSoc
      ∨ (memRead16 F 8 = 0#16 ∧ c.addrDbg ≠ 0#16)
      ∨ (c.regmapN ≤ (memRead16 F 8).toNat ∧ memRead16 F 8 ≠ c.addrDbg) →
    decode c F = .writeIllegal { tid := memRead16 F 0, pid := memRead16 F 2, uid := memRead8 F 6 } (memRead16 F 8)
      (memRead16 F 10) ((F.take (6 + frameLen F)).drop 12))
  ∧ ∀ (hdr : Header) (a v : Word) (extra : Frame) (s : State),
    exec (.writeIllegal hdr a v extra) s = .next { s with rsp := s.rsp ++ [.frame (wordBytes hdr.tid ++ wordBytes hdr.pid
      ++ [0x00, 0x03, hdr.uid, 0x86, 0x02])] }

/-- 20_memory.md R57: a repeated WRITE_PTD sets the same `SP`, `mode` and `rate`, and the same Register Map. -/
def Obligations.RepeatedSetpointWriteChangesNothing : Prop :=
  ∀ (hdr hdr' : Header) (v : Word) (extra extra' : Frame) (s t u : State), s.cfg.wf = true → Memory.wf s.rm = true →
    extra.length + 6 < 65536 → extra'.length + 6 < 65536 →
    exec (.writePtd hdr v extra) s = .next t → exec (.writePtd hdr' v extra') t = .next u → u = { t with rsp := u.rsp }

/-- 10_state.md R27, 41_read_requests.md R132: a READ_PTD after a WRITE_PTD replies the written pattern, whatever ticks and other
frames, not themselves WRITE_PTD, stand between them, so also after a clamp has forced Idle. -/
def Obligations.SetpointReadsBackVerbatim : Prop :=
  ∀ (s t : State) (W R : Frame) (between : List Input) (hdr hdr' : Header) (v v' : Word) (extra extra' : Frame),
    s.cfg.wf = true → Memory.wf s.rm = true → s.inputs = .frame W :: (between ++ [.frame R]) →
    decode s.cfg W = .writePtd hdr v extra → decode s.cfg R = .readPtd hdr' v' extra' →
    (∀ inp ∈ between, inp ≠ .reset ∧ ∀ hdr v extra, decodeInput s.cfg inp ≠ .writePtd hdr v extra) →
    run (between.length + 2) s = .next t →
    t.sp = v ∧ t.rm.read s.cfg.addrPtd.toNat = v
    ∧ ∃ rs, t.rsp = s.rsp ++ rs ++ [.frame (wordBytes hdr'.tid ++ wordBytes hdr'.pid
        ++ wordBytes (BitVec.ofNat 16 (6 + extra'.length)) ++ [hdr'.uid, 0x03] ++ wordBytes s.cfg.addrPtd ++ wordBytes v ++ extra')]

/-! ### The tick -/

/-- R181: a charging tick; a sum of exactly 100 is kept with `mode` Charging, and the next tick clamps and goes Idle. -/
def Obligations.ChargingTickResult : Prop :=
  ∀ (s : State), s.mode = .charging →
    exec .tick s = .next (if s.soc + s.rate > 100 then { s with soc := 100, mode := .idle } else { s with soc := s.soc + s.rate })
    ∧ (s.soc + s.rate = 100 → 0 < s.rate →
      exec .tick s = .next { s with soc := 100 } ∧ exec .tick { s with soc := 100 } = .next { s with soc := 100, mode := .idle })

/-- R182: a discharging tick; a difference of exactly 0 is kept with `mode` Discharging, and the next tick clamps and goes Idle. -/
def Obligations.DischargingTickResult : Prop :=
  ∀ (s : State), s.mode = .discharging →
    exec .tick s = .next (if s.soc - s.rate < 0 then { s with soc := 0, mode := .idle } else { s with soc := s.soc - s.rate })
    ∧ (s.soc - s.rate = 0 → 0 < s.rate →
      exec .tick s = .next { s with soc := 0 } ∧ exec .tick { s with soc := 0 } = .next { s with soc := 0, mode := .idle })

/-- R183: an idle tick changes nothing, whatever `rate` holds, and so does any number of them. -/
def Obligations.IdleTicksChangeNothing : Prop :=
  (∀ (s : State), s.mode = .idle → exec .tick s = .next s)
  ∧ ∀ (s : State) (k : Nat) (rest : List Input), s.cfg.wf = true → s.mode = .idle → s.inputs = List.replicate k .tick ++ rest →
    run k s = .next { s with inputs := rest }

/-- 43_tick.md R180, R185: a tick completes in every state, writes only `soc` and `mode`, and what it leaves in them depends on
`soc`, `mode` and `rate` alone. -/
def Obligations.TickFrame : Prop :=
  ∀ (s u : State), ∃ x m, exec .tick s = .next { s with soc := x, mode := m }
    ∧ (u.soc = s.soc → u.mode = s.mode → u.rate = s.rate → exec .tick u = .next { u with soc := x, mode := m })

/-- 43_tick.md R186, the first sentence: `k` ticks with no bound passed move `soc` by exactly `k * rate`. -/
def Obligations.TicksAccumulate : Prop :=
  ∀ (s : State) (k : Nat) (rest : List Input), s.cfg.wf = true → s.inputs = List.replicate k .tick ++ rest → 0 ≤ s.rate →
    (s.mode = .charging → s.soc + k * s.rate ≤ 100 →
      run k s = .next { s with soc := s.soc + k * s.rate, inputs := rest })
    ∧ (s.mode = .discharging → 0 ≤ s.soc - k * s.rate →
      run k s = .next { s with soc := s.soc - k * s.rate, inputs := rest })

/-- 43_tick.md R186, the clamping tick: the first `k` that passes the bound is `floor((100 - soc) / rate) + 1` while Charging and
`floor(soc / rate) + 1` while Discharging; the ticks before it keep the mode. -/
def Obligations.ClampTickNumber : Prop :=
  ∀ (s : State) (k : Nat) (rest : List Input), s.cfg.wf = true → s.inputs = List.replicate k .tick ++ rest → 0 < s.rate →
    (s.mode = .charging → s.soc ≤ 100 → (k : Int) = ((100 - s.soc) / s.rate).floor + 1 →
      run k s = .next { s with soc := 100, mode := .idle, inputs := rest }
      ∧ ∀ j, j < k → ∃ t, run j s = .next t ∧ t.mode = .charging ∧ t.soc = s.soc + j * s.rate)
    ∧ (s.mode = .discharging → 0 ≤ s.soc → (k : Int) = (s.soc / s.rate).floor + 1 →
      run k s = .next { s with soc := 0, mode := .idle, inputs := rest }
      ∧ ∀ j, j < k → ∃ t, run j s = .next t ∧ t.mode = .discharging ∧ t.soc = s.soc - j * s.rate)

/-- 43_tick.md R186, the full charge, for every configuration: a charge at rated power from 0 % is exactly at 100 % after `T_CHG`
ticks, still Charging, and Idle one tick later. -/
def Obligations.FullChargeTakesChargeTime : Prop :=
  ∀ (s : State) (rest : List Input), s.cfg.wf = true → s.cfg.pKw ≤ 32768 → s.mode = .charging → s.soc = 0 →
    s.rate = setpointRate s.cfg (BitVec.ofNat 16 (65536 - s.cfg.pKw)) → s.inputs = List.replicate (s.cfg.tChg + 1) .tick ++ rest →
    s.rate = 100 / (s.cfg.tChg : Rat)
    ∧ run s.cfg.tChg s = .next { s with soc := 100, inputs := .tick :: rest }
    ∧ run (s.cfg.tChg + 1) s = .next { s with soc := 100, mode := .idle, inputs := rest }

/-- 43_tick.md R184: no request writes `soc`; the tick does, and RESET sets it to its reset value (70_reset_and_hazards.md R230). -/
def Obligations.OnlyTickAndResetWriteSoc : Prop :=
  ∀ (i : Instr) (s t : State), exec i s = .next t → i ≠ .tick → i ≠ .reset → t.soc = s.soc

/-- 10_state.md R32, R26, R27: which instructions write the status elements, the rate and the setpoint. -/
def Obligations.StatusElementWriters : Prop :=
  ∀ (i : Instr) (s t : State), exec i s = .next t → i ≠ .reset →
    ((∀ hdr v extra, i ≠ .writePtd hdr v extra) → t.rate = s.rate ∧ t.sp = s.sp
      ∧ (t.mode = s.mode ∨ (i = .tick ∧ t.mode = .idle ∧ ((t.soc = 100 ∧ s.soc + s.rate > 100) ∨ (t.soc = 0 ∧ s.soc - s.rate < 0)))))
    ∧ ((∀ hdr v extra, i ≠ .writeDbg hdr v extra) → t.dbg = s.dbg)

/-! ### Reset -/

/-- 70_reset_and_hazards.md R230, R231: RESET sets every state element to its reset value, from any state, and the configuration
stays (10_state.md R33). That the inputs still to come and the replies that have left stay is the model's choice, logs 2
and 3. -/
def Obligations.ResetResult : Prop :=
  ∀ (s : State), ∃ t, exec .reset s = .next t
    ∧ (∀ i, t.rm.read i = 0) ∧ t.soc = 50 ∧ t.mode = .idle ∧ t.rate = 0 ∧ t.sp = 0 ∧ t.dbg = false
    ∧ t.cfg = s.cfg ∧ t.inputs = s.inputs ∧ t.rsp = s.rsp
    ∧ t = { State.init s.cfg with inputs := s.inputs, rsp := s.rsp }

/-- 70_reset_and_hazards.md R233, the spec's own inference: after reset the mirrors agree, and slot `ADDR_SOC`, which does not, is
rewritten before a reply reads it. -/
def Obligations.ResetMirrorsAgree : Prop :=
  ∀ (c : Config) (hdr : Header) (v : Word) (extra : Frame), c.wf = true → extra.length + 6 < 65536 →
    (State.init c).regRead 0 = flagWord (State.init c).dbg ∧ (State.init c).regRead 0 = 0
    ∧ (State.init c).regRead c.addrPtd.toNat = (State.init c).sp ∧ (State.init c).sp = 0
    ∧ (State.init c).regRead c.addrSoc.toNat = 0 ∧ socValue (State.init c).soc = 500#16
    ∧ ∃ t, exec (.readSoc hdr v extra) (State.init c) = .next t ∧ t.regRead c.addrSoc.toNat = 500#16
      ∧ t.rsp = [.frame (wordBytes hdr.tid ++ wordBytes hdr.pid ++ wordBytes (BitVec.ofNat 16 (6 + extra.length))
        ++ [hdr.uid, 0x03] ++ wordBytes c.addrSoc ++ [0x01, 0xF4] ++ extra)]

/-! ### Whole-machine facts -/

/-- The invariant of Safety.lean: canonical Register Map, unused slots zero, mirrors, `0 <= soc <= 100`, and `rate` and `mode` those
of the last setpoint. Every step keeps it. -/
def Obligations.StepKeepsInvariant : Prop :=
  ∀ (s t : State), Inv s → step s = .next t → Inv t

/-- The invariant holds after reset, under every well-formed configuration and whatever the host is about to hand in. -/
def Obligations.ResetMeetsInvariant : Prop :=
  Inv State.reset ∧ ∀ (c : Config) (l : List Input), c.wf = true → Inv (State.initWith c l)

/-- 10_state.md R29: `0 <= soc <= 100` in every reachable state, over every sequence of inputs, and the register value fits. -/
def Obligations.SocStaysInRange : Prop :=
  ∀ (c : Config) (l : List Input) (k : Nat) (t : State), c.wf = true →
    run k (State.initWith c l) = .next t →
    0 ≤ t.soc ∧ t.soc ≤ 100 ∧ (t.soc * 10 + 1 / 2).floor = ((socValue t.soc).toNat : Int) ∧ (socValue t.soc).toNat ≤ 1000

/-- 10_state.md R22: every slot but 0, `ADDR_SOC` and `ADDR_PTD` holds its reset value for the whole run. -/
def Obligations.OtherSlotsHoldResetValue : Prop :=
  ∀ (c : Config) (l : List Input) (k : Nat) (t : State), c.wf = true →
    run k (State.initWith c l) = .next t →
    ∀ i, i ≠ 0 → i ≠ c.addrSoc.toNat → i ≠ c.addrPtd.toNat → t.regRead i = 0 ∧ t.rm.read i = 0

/-- 60_exceptions.md R212: no request kind, tick or reply but WRITE_DBG's own depends on the debug flag. Two states that differ only
in `dbg` and slot 0 and take the same input differ afterwards only in these, and reply alike unless the input is a WRITE_DBG. -/
def Obligations.DebugFlagAffectsNothingElse : Prop :=
  ∀ (s s' t t' : State), Inv s → Inv s' →
    s' = { s with dbg := s'.dbg, rm := s'.rm } → (∀ i, i ≠ 0 → s'.rm.read i = s.rm.read i) →
    step s = .next t → step s' = .next t' →
    t' = { t with dbg := t'.dbg, rm := t'.rm, rsp := t'.rsp } ∧ (∀ i, i ≠ 0 → t'.rm.read i = t.rm.read i)
    ∧ ((∀ inp rest, s.inputs = inp :: rest → ∀ hdr v extra, decodeInput s.cfg inp ≠ .writeDbg hdr v extra) → t'.rsp = t.rsp)
end

