-- ==== Sys2Proof/Laws/State.lean ====
section
/-! SUPPORT. One lemma per field per update of State, so that no later proof unfolds a record update. -/

namespace Sys2Proof.Machine

variable (s : State)

@[simp] theorem State.setRm_cfg (m : Memory) : (s.setRm m).cfg = s.cfg := rfl
@[simp] theorem State.setRm_rm (m : Memory) : (s.setRm m).rm = m := rfl
@[simp] theorem State.setRm_soc (m : Memory) : (s.setRm m).soc = s.soc := rfl
@[simp] theorem State.setRm_mode (m : Memory) : (s.setRm m).mode = s.mode := rfl
@[simp] theorem State.setRm_rate (m : Memory) : (s.setRm m).rate = s.rate := rfl
@[simp] theorem State.setRm_sp (m : Memory) : (s.setRm m).sp = s.sp := rfl
@[simp] theorem State.setRm_dbg (m : Memory) : (s.setRm m).dbg = s.dbg := rfl
@[simp] theorem State.setRm_inputs (m : Memory) : (s.setRm m).inputs = s.inputs := rfl
@[simp] theorem State.setRm_rsp (m : Memory) : (s.setRm m).rsp = s.rsp := rfl

@[simp] theorem State.setSoc_cfg (x : Rat) : (s.setSoc x).cfg = s.cfg := rfl
@[simp] theorem State.setSoc_rm (x : Rat) : (s.setSoc x).rm = s.rm := rfl
@[simp] theorem State.setSoc_soc (x : Rat) : (s.setSoc x).soc = x := rfl
@[simp] theorem State.setSoc_mode (x : Rat) : (s.setSoc x).mode = s.mode := rfl
@[simp] theorem State.setSoc_rate (x : Rat) : (s.setSoc x).rate = s.rate := rfl
@[simp] theorem State.setSoc_sp (x : Rat) : (s.setSoc x).sp = s.sp := rfl
@[simp] theorem State.setSoc_dbg (x : Rat) : (s.setSoc x).dbg = s.dbg := rfl
@[simp] theorem State.setSoc_inputs (x : Rat) : (s.setSoc x).inputs = s.inputs := rfl
@[simp] theorem State.setSoc_rsp (x : Rat) : (s.setSoc x).rsp = s.rsp := rfl

@[simp] theorem State.setMode_cfg (m : Mode) : (s.setMode m).cfg = s.cfg := rfl
@[simp] theorem State.setMode_rm (m : Mode) : (s.setMode m).rm = s.rm := rfl
@[simp] theorem State.setMode_soc (m : Mode) : (s.setMode m).soc = s.soc := rfl
@[simp] theorem State.setMode_mode (m : Mode) : (s.setMode m).mode = m := rfl
@[simp] theorem State.setMode_rate (m : Mode) : (s.setMode m).rate = s.rate := rfl
@[simp] theorem State.setMode_sp (m : Mode) : (s.setMode m).sp = s.sp := rfl
@[simp] theorem State.setMode_dbg (m : Mode) : (s.setMode m).dbg = s.dbg := rfl
@[simp] theorem State.setMode_inputs (m : Mode) : (s.setMode m).inputs = s.inputs := rfl
@[simp] theorem State.setMode_rsp (m : Mode) : (s.setMode m).rsp = s.rsp := rfl

@[simp] theorem State.setRate_cfg (x : Rat) : (s.setRate x).cfg = s.cfg := rfl
@[simp] theorem State.setRate_rm (x : Rat) : (s.setRate x).rm = s.rm := rfl
@[simp] theorem State.setRate_soc (x : Rat) : (s.setRate x).soc = s.soc := rfl
@[simp] theorem State.setRate_mode (x : Rat) : (s.setRate x).mode = s.mode := rfl
@[simp] theorem State.setRate_rate (x : Rat) : (s.setRate x).rate = x := rfl
@[simp] theorem State.setRate_sp (x : Rat) : (s.setRate x).sp = s.sp := rfl
@[simp] theorem State.setRate_dbg (x : Rat) : (s.setRate x).dbg = s.dbg := rfl
@[simp] theorem State.setRate_inputs (x : Rat) : (s.setRate x).inputs = s.inputs := rfl
@[simp] theorem State.setRate_rsp (x : Rat) : (s.setRate x).rsp = s.rsp := rfl

@[simp] theorem State.setSp_cfg (w : Word) : (s.setSp w).cfg = s.cfg := rfl
@[simp] theorem State.setSp_rm (w : Word) : (s.setSp w).rm = s.rm := rfl
@[simp] theorem State.setSp_soc (w : Word) : (s.setSp w).soc = s.soc := rfl
@[simp] theorem State.setSp_mode (w : Word) : (s.setSp w).mode = s.mode := rfl
@[simp] theorem State.setSp_rate (w : Word) : (s.setSp w).rate = s.rate := rfl
@[simp] theorem State.setSp_sp (w : Word) : (s.setSp w).sp = w := rfl
@[simp] theorem State.setSp_dbg (w : Word) : (s.setSp w).dbg = s.dbg := rfl
@[simp] theorem State.setSp_inputs (w : Word) : (s.setSp w).inputs = s.inputs := rfl
@[simp] theorem State.setSp_rsp (w : Word) : (s.setSp w).rsp = s.rsp := rfl

@[simp] theorem State.setDbg_cfg (b : Bool) : (s.setDbg b).cfg = s.cfg := rfl
@[simp] theorem State.setDbg_rm (b : Bool) : (s.setDbg b).rm = s.rm := rfl
@[simp] theorem State.setDbg_soc (b : Bool) : (s.setDbg b).soc = s.soc := rfl
@[simp] theorem State.setDbg_mode (b : Bool) : (s.setDbg b).mode = s.mode := rfl
@[simp] theorem State.setDbg_rate (b : Bool) : (s.setDbg b).rate = s.rate := rfl
@[simp] theorem State.setDbg_sp (b : Bool) : (s.setDbg b).sp = s.sp := rfl
@[simp] theorem State.setDbg_dbg (b : Bool) : (s.setDbg b).dbg = b := rfl
@[simp] theorem State.setDbg_inputs (b : Bool) : (s.setDbg b).inputs = s.inputs := rfl
@[simp] theorem State.setDbg_rsp (b : Bool) : (s.setDbg b).rsp = s.rsp := rfl

@[simp] theorem State.setInputs_cfg (l : List Input) : (s.setInputs l).cfg = s.cfg := rfl
@[simp] theorem State.setInputs_rm (l : List Input) : (s.setInputs l).rm = s.rm := rfl
@[simp] theorem State.setInputs_soc (l : List Input) : (s.setInputs l).soc = s.soc := rfl
@[simp] theorem State.setInputs_mode (l : List Input) : (s.setInputs l).mode = s.mode := rfl
@[simp] theorem State.setInputs_rate (l : List Input) : (s.setInputs l).rate = s.rate := rfl
@[simp] theorem State.setInputs_sp (l : List Input) : (s.setInputs l).sp = s.sp := rfl
@[simp] theorem State.setInputs_dbg (l : List Input) : (s.setInputs l).dbg = s.dbg := rfl
@[simp] theorem State.setInputs_inputs (l : List Input) : (s.setInputs l).inputs = l := rfl
@[simp] theorem State.setInputs_rsp (l : List Input) : (s.setInputs l).rsp = s.rsp := rfl

@[simp] theorem State.reply_cfg (r : Reply) : (s.reply r).cfg = s.cfg := rfl
@[simp] theorem State.reply_rm (r : Reply) : (s.reply r).rm = s.rm := rfl
@[simp] theorem State.reply_soc (r : Reply) : (s.reply r).soc = s.soc := rfl
@[simp] theorem State.reply_mode (r : Reply) : (s.reply r).mode = s.mode := rfl
@[simp] theorem State.reply_rate (r : Reply) : (s.reply r).rate = s.rate := rfl
@[simp] theorem State.reply_sp (r : Reply) : (s.reply r).sp = s.sp := rfl
@[simp] theorem State.reply_dbg (r : Reply) : (s.reply r).dbg = s.dbg := rfl
@[simp] theorem State.reply_inputs (r : Reply) : (s.reply r).inputs = s.inputs := rfl
@[simp] theorem State.reply_rsp (r : Reply) : (s.reply r).rsp = s.rsp ++ [r] := rfl

/-! ### The operations built from them -/

@[simp] theorem State.regWrite_cfg (i : Nat) (v : Word) : (s.regWrite i v).cfg = s.cfg := by
  unfold State.regWrite; split <;> rfl
@[simp] theorem State.regWrite_soc (i : Nat) (v : Word) : (s.regWrite i v).soc = s.soc := by
  unfold State.regWrite; split <;> rfl
@[simp] theorem State.regWrite_mode (i : Nat) (v : Word) : (s.regWrite i v).mode = s.mode := by
  unfold State.regWrite; split <;> rfl
@[simp] theorem State.regWrite_rate (i : Nat) (v : Word) : (s.regWrite i v).rate = s.rate := by
  unfold State.regWrite; split <;> rfl
@[simp] theorem State.regWrite_sp (i : Nat) (v : Word) : (s.regWrite i v).sp = s.sp := by
  unfold State.regWrite; split <;> rfl
@[simp] theorem State.regWrite_dbg (i : Nat) (v : Word) : (s.regWrite i v).dbg = s.dbg := by
  unfold State.regWrite; split <;> rfl
@[simp] theorem State.regWrite_inputs (i : Nat) (v : Word) : (s.regWrite i v).inputs = s.inputs := by
  unfold State.regWrite; split <;> rfl
@[simp] theorem State.regWrite_rsp (i : Nat) (v : Word) : (s.regWrite i v).rsp = s.rsp := by
  unfold State.regWrite; split <;> rfl

@[simp] theorem State.setPowerSetpoint_cfg (raw : Word) : (s.setPowerSetpoint raw).cfg = s.cfg := rfl
@[simp] theorem State.setPowerSetpoint_rm (raw : Word) : (s.setPowerSetpoint raw).rm = s.rm := rfl
@[simp] theorem State.setPowerSetpoint_soc (raw : Word) : (s.setPowerSetpoint raw).soc = s.soc := rfl
@[simp] theorem State.setPowerSetpoint_mode (raw : Word) : (s.setPowerSetpoint raw).mode = setpointMode raw := rfl
@[simp] theorem State.setPowerSetpoint_rate (raw : Word) : (s.setPowerSetpoint raw).rate = setpointRate s.cfg raw := rfl
@[simp] theorem State.setPowerSetpoint_sp (raw : Word) : (s.setPowerSetpoint raw).sp = raw := rfl
@[simp] theorem State.setPowerSetpoint_dbg (raw : Word) : (s.setPowerSetpoint raw).dbg = s.dbg := rfl
@[simp] theorem State.setPowerSetpoint_inputs (raw : Word) : (s.setPowerSetpoint raw).inputs = s.inputs := rfl
@[simp] theorem State.setPowerSetpoint_rsp (raw : Word) : (s.setPowerSetpoint raw).rsp = s.rsp := rfl

@[simp] theorem State.succeed_cfg (F : Frame) (slot : Nat) : (s.succeed F slot).cfg = s.cfg := rfl
@[simp] theorem State.succeed_rm (F : Frame) (slot : Nat) : (s.succeed F slot).rm = s.rm := rfl
@[simp] theorem State.succeed_soc (F : Frame) (slot : Nat) : (s.succeed F slot).soc = s.soc := rfl
@[simp] theorem State.succeed_mode (F : Frame) (slot : Nat) : (s.succeed F slot).mode = s.mode := rfl
@[simp] theorem State.succeed_rate (F : Frame) (slot : Nat) : (s.succeed F slot).rate = s.rate := rfl
@[simp] theorem State.succeed_sp (F : Frame) (slot : Nat) : (s.succeed F slot).sp = s.sp := rfl
@[simp] theorem State.succeed_dbg (F : Frame) (slot : Nat) : (s.succeed F slot).dbg = s.dbg := rfl
@[simp] theorem State.succeed_inputs (F : Frame) (slot : Nat) : (s.succeed F slot).inputs = s.inputs := rfl
@[simp] theorem State.succeed_rsp (F : Frame) (slot : Nat) : (s.succeed F slot).rsp = s.rsp ++ [.frame (successFrame F (s.regRead slot))] := rfl

@[simp] theorem State.raiseExc_cfg (F : Frame) (code : ExcCode) : (s.raiseExc F code).cfg = s.cfg := rfl
@[simp] theorem State.raiseExc_rm (F : Frame) (code : ExcCode) : (s.raiseExc F code).rm = s.rm := rfl
@[simp] theorem State.raiseExc_soc (F : Frame) (code : ExcCode) : (s.raiseExc F code).soc = s.soc := rfl
@[simp] theorem State.raiseExc_mode (F : Frame) (code : ExcCode) : (s.raiseExc F code).mode = s.mode := rfl
@[simp] theorem State.raiseExc_rate (F : Frame) (code : ExcCode) : (s.raiseExc F code).rate = s.rate := rfl
@[simp] theorem State.raiseExc_sp (F : Frame) (code : ExcCode) : (s.raiseExc F code).sp = s.sp := rfl
@[simp] theorem State.raiseExc_dbg (F : Frame) (code : ExcCode) : (s.raiseExc F code).dbg = s.dbg := rfl
@[simp] theorem State.raiseExc_inputs (F : Frame) (code : ExcCode) : (s.raiseExc F code).inputs = s.inputs := rfl
@[simp] theorem State.raiseExc_rsp (F : Frame) (code : ExcCode) : (s.raiseExc F code).rsp = s.rsp ++ [.frame (excFrame F code)] := rfl

/-- A state is its fields. -/
theorem State.ext_fields {s t : State} (hcfg : s.cfg = t.cfg) (hrm : s.rm = t.rm) (hsoc : s.soc = t.soc)
    (hmode : s.mode = t.mode) (hrate : s.rate = t.rate) (hsp : s.sp = t.sp) (hdbg : s.dbg = t.dbg)
    (hinputs : s.inputs = t.inputs) (hrsp : s.rsp = t.rsp) : s = t := by
  cases s; cases t; simp_all

end Sys2Proof.Machine
end

