-- ==== Sys2Proof/Laws/Memory.lean ====
section
/-! SUPPORT. The Register Map: read after write, the canonical form is kept, and equal contents are equal data. -/

namespace Sys2Proof.Machine

@[simp] theorem Memory.read_nil (i : Nat) : Memory.read [] i = 0 := rfl

theorem Memory.read_cons (j : Nat) (w : Word) (m : Memory) (i : Nat) :
    Memory.read ((j, w) :: m) i = if i = j then w else Memory.read m i := rfl

@[simp] theorem Memory.wf_nil : Memory.wf [] = true := rfl

/-- The canonical form of a listed memory, one cell at a time. -/
theorem Memory.wf_cons {j : Nat} {w : Word} {m : Memory} :
    Memory.wf ((j, w) :: m) = true ↔ (∀ c ∈ m, j < c.1) ∧ w ≠ 0 ∧ Memory.wf m = true := by
  simp only [Memory.wf, List.pairwise_cons, Bool.and_eq_true, decide_eq_true_eq, List.all_cons]
  tauto

/-- Below every listed slot a memory reads as unlisted. -/
theorem Memory.read_of_lt {m : Memory} {i : Nat} (h : ∀ c ∈ m, i < c.1) : Memory.read m i = 0 := by
  induction m with
  | nil => rfl
  | cons c m ih =>
    obtain ⟨j, w⟩ := c
    have hj : i < j := h (j, w) (by simp)
    rw [Memory.read_cons, if_neg (by omega)]
    exact ih fun c hc => h c (by simp [hc])

/-- A write lists no slot but its own and those listed before. -/
theorem Memory.mem_write {m : Memory} {i : Nat} {v : Word} {c : Nat × Word} (h : c ∈ Memory.write m i v) :
    c = (i, v) ∨ c ∈ m := by
  induction m with
  | nil =>
    unfold Memory.write at h
    split at h <;> simp_all
  | cons d m ih =>
    obtain ⟨j, w⟩ := d
    unfold Memory.write at h
    split_ifs at h <;> simp only [List.mem_cons] at h ⊢ <;> tauto

/-- A write keeps the canonical form. -/
theorem Memory.write_wf {m : Memory} (h : Memory.wf m = true) (i : Nat) (v : Word) :
    Memory.wf (Memory.write m i v) = true := by
  induction m with
  | nil =>
    unfold Memory.write
    split
    · rfl
    · exact Memory.wf_cons.2 ⟨by simp, by assumption, rfl⟩
  | cons d m ih =>
    obtain ⟨j, w⟩ := d
    obtain ⟨hlt, hw, hm⟩ := Memory.wf_cons.1 h
    unfold Memory.write
    split_ifs with h1 h2 h3 h4
    · exact h
    · refine Memory.wf_cons.2 ⟨?_, h2, h⟩
      intro c hc
      rcases List.mem_cons.1 hc with rfl | hc
      · exact h1
      · exact h1.trans (hlt c hc)
    · exact hm
    · exact Memory.wf_cons.2 ⟨fun c hc => h3 ▸ hlt c hc, h4, hm⟩
    · refine Memory.wf_cons.2 ⟨?_, hw, ih hm⟩
      intro c hc
      rcases Memory.mem_write hc with rfl | hc
      · show j < i
        omega
      · exact hlt c hc

/-- Read after write, at the slot written and at every other one. -/
theorem Memory.read_write {m : Memory} (h : Memory.wf m = true) (i : Nat) (v : Word) (k : Nat) :
    Memory.read (Memory.write m i v) k = if k = i then v else Memory.read m k := by
  induction m with
  | nil =>
    unfold Memory.write
    split_ifs <;> simp_all [Memory.read_cons]
  | cons d m ih =>
    obtain ⟨j, w⟩ := d
    obtain ⟨hlt, -, hm⟩ := Memory.wf_cons.1 h
    have low : ∀ {i}, i < j → Memory.read ((j, w) :: m) i = 0 := fun hi =>
      Memory.read_of_lt fun c hc => by
        rcases List.mem_cons.1 hc with rfl | hc
        · exact hi
        · exact hi.trans (hlt c hc)
    have gone : Memory.read m j = 0 := Memory.read_of_lt hlt
    unfold Memory.write
    split_ifs <;> simp_all [Memory.read_cons]

/-- Two canonical memories that read alike at every slot are equal. -/
theorem Memory.eq_of_read {m n : Memory} (hm : Memory.wf m = true) (hn : Memory.wf n = true)
    (h : ∀ i, Memory.read m i = Memory.read n i) : m = n := by
  induction m generalizing n with
  | nil =>
    cases n with
    | nil => rfl
    | cons d n =>
      obtain ⟨j, w⟩ := d
      exact absurd (by simpa [Memory.read_cons] using (h j).symm) (Memory.wf_cons.1 hn).2.1
  | cons d m ih =>
    obtain ⟨j, w⟩ := d
    obtain ⟨hlt, hw, hm'⟩ := Memory.wf_cons.1 hm
    cases n with
    | nil => exact absurd (by simpa [Memory.read_cons] using h j) hw
    | cons e n =>
      obtain ⟨k, x⟩ := e
      obtain ⟨klt, hx, hn'⟩ := Memory.wf_cons.1 hn
      have hjk : j = k := by
        rcases Nat.lt_trichotomy j k with hl | he | hl
        · have := h j
          rw [Memory.read_cons, if_pos rfl, Memory.read_cons, if_neg (by omega),
            Memory.read_of_lt fun c hc => hl.trans (klt c hc)] at this
          exact absurd this hw
        · exact he
        · have := h k
          rw [Memory.read_cons, if_neg (by omega), Memory.read_of_lt fun c hc => hl.trans (hlt c hc),
            Memory.read_cons, if_pos rfl] at this
          exact absurd this.symm hx
      subst hjk
      have hwx : w = x := by simpa [Memory.read_cons] using h j
      subst hwx
      rw [ih hm' hn' fun i => ?_]
      by_cases hi : i = j
      · subst hi
        rw [Memory.read_of_lt hlt, Memory.read_of_lt klt]
      · simpa [Memory.read_cons, hi] using h i

/-! ### The same through the range check of `RegRead` and `RegWrite` -/

theorem State.regWrite_rm_of_lt (s : State) {i : Nat} (hi : i < s.cfg.regmapN) (v : Word) :
    (s.regWrite i v).rm = s.rm.write i v := by simp [State.regWrite, hi]

/-- R51: an index out of range changes nothing. -/
theorem State.regWrite_of_ge (s : State) {i : Nat} (hi : s.cfg.regmapN ≤ i) (v : Word) : s.regWrite i v = s := by
  simp [State.regWrite, Nat.not_lt.2 hi]

/-- A register write keeps the canonical form. -/
theorem State.regWrite_wf {s : State} (h : Memory.wf s.rm = true) (i : Nat) (v : Word) :
    Memory.wf (s.regWrite i v).rm = true := by
  unfold State.regWrite
  split
  · exact Memory.write_wf h i v
  · exact h

/-- Read after write through the range check. -/
theorem State.regRead_regWrite {s : State} (h : Memory.wf s.rm = true) (i : Nat) (v : Word) (k : Nat) :
    (s.regWrite i v).regRead k = if k = i ∧ i < s.cfg.regmapN then v else s.regRead k := by
  by_cases hi : i < s.cfg.regmapN
  · simp only [State.regRead, State.regWrite_cfg, State.regWrite_rm_of_lt s hi, Memory.read_write h, hi, and_true]
    by_cases hk : k = i
    · subst hk; simp [hi]
    · simp [hk]
  · rw [State.regWrite_of_ge s (by omega)]
    simp [hi]

/-- The Register Map's contents after a register write. -/
theorem State.read_regWrite {s : State} (h : Memory.wf s.rm = true) {i : Nat} (hi : i < s.cfg.regmapN) (v : Word)
    (k : Nat) : (s.regWrite i v).rm.read k = if k = i then v else s.rm.read k := by
  rw [State.regWrite_rm_of_lt s hi, Memory.read_write h]

/-- What `RegRead` of the slot just written gives, whatever the Register Map held before. -/
theorem State.regRead_regWrite_self {s : State} (h : Memory.wf s.rm = true) {i : Nat} (hi : i < s.cfg.regmapN) (v : Word) :
    (s.regWrite i v).regRead i = v := by
  rw [State.regRead_regWrite h]
  simp [hi]

end Sys2Proof.Machine
end

