-- ==== Sys2Proof/Laws/Frames.lean ====
section
/-! SUPPORT. The bytes and fields of frames: what the encoder lays out is what the decoder reads, and the two reply frames of
40_frame_codec.md R106 and R107 on the frames of requests. -/

namespace Sys2Proof

@[simp] theorem be16_hiByte_loByte (v : Word) : be16 (hiByte v) (loByte v) = v := by
  unfold be16 hiByte loByte
  ext i hi
  simp only [BitVec.getElem_append, BitVec.getElem_extractLsb']
  split <;> rename_i h
  · simp [hi]
  · have : 8 + (i - 8) = i := by omega
    simp [this, hi]

/-- R9: `be16(F, i) = F[i] * 256 + F[i+1]`. -/
theorem be16_toNat (a b : Byte) : (be16 a b).toNat = a.toNat * 256 + b.toNat := by
  unfold be16
  rw [BitVec.toNat_append, ← Nat.shiftLeft_add_eq_or_of_lt b.isLt, Nat.shiftLeft_eq]

@[simp] theorem hiByte_be16 (a b : Byte) : hiByte (be16 a b) = a := by
  apply BitVec.eq_of_toNat_eq
  rw [hiByte, BitVec.extractLsb'_toNat, be16_toNat, Nat.shiftRight_eq_div_pow]
  omega

@[simp] theorem loByte_be16 (a b : Byte) : loByte (be16 a b) = b := by
  apply BitVec.eq_of_toNat_eq
  rw [loByte, BitVec.extractLsb'_toNat, be16_toNat, Nat.shiftRight_eq_div_pow]
  omega

/-! ### Lengths -/

@[simp] theorem headerBytes_length (hdr : Header) (len : Word) (fc : Byte) : (headerBytes hdr len fc).length = 8 := rfl

@[simp] theorem requestFrame_length (hdr : Header) (fc : FunctionCode) (a v : Word) (extra : Frame) :
    (requestFrame hdr fc a v extra).length = 12 + extra.length := by
  simp [requestFrame, headerBytes, wordBytes]
  omega

/-! ### The fields of a frame that starts with encoded header bytes -/

section Header
variable (hdr : Header) (len : Word) (fc : Byte) (data : Frame)

@[simp] theorem frameLen_headerBytes : frameLen (headerBytes hdr len fc ++ data) = len.toNat := by
  simp [frameLen, memRead16, memRead8, headerBytes, wordBytes]

@[simp] theorem memRead16_len_headerBytes : memRead16 (headerBytes hdr len fc ++ data) 4 = len := by
  simp [memRead16, memRead8, headerBytes, wordBytes]

@[simp] theorem frameHeader_headerBytes : frameHeader (headerBytes hdr len fc ++ data) = hdr := by
  simp [frameHeader, memRead16, memRead8, headerBytes, wordBytes]

@[simp] theorem frameFc_headerBytes : frameFc (headerBytes hdr len fc ++ data) = fc := by
  simp [frameFc, memRead8, headerBytes, wordBytes]

@[simp] theorem drop_headerBytes : (headerBytes hdr len fc ++ data).drop 8 = data := rfl

end Header

theorem requestFrame_eq (hdr : Header) (fc : FunctionCode) (a v : Word) (extra : Frame) :
    requestFrame hdr fc a v extra =
      headerBytes hdr (BitVec.ofNat 16 (6 + extra.length)) fc.toByte ++ (wordBytes a ++ (wordBytes v ++ extra)) := by
  simp [requestFrame]

/-! ### The fields of an encoded request -/

section Request
variable (hdr : Header) (fc : FunctionCode) (a v : Word) {extra : Frame}

theorem extraFits_iff : extraFits extra = true ↔ extra.length + 6 < 65536 := by simp [extraFits]

theorem frameLen_requestFrame (h : extraFits extra = true) : frameLen (requestFrame hdr fc a v extra) = 6 + extra.length := by
  rw [requestFrame_eq, frameLen_headerBytes, BitVec.toNat_ofNat, Nat.mod_eq_of_lt]
  have := extraFits_iff.1 h
  omega

@[simp] theorem frameHeader_requestFrame : frameHeader (requestFrame hdr fc a v extra) = hdr := by
  rw [requestFrame_eq, frameHeader_headerBytes]

@[simp] theorem frameFc_requestFrame : frameFc (requestFrame hdr fc a v extra) = fc.toByte := by
  rw [requestFrame_eq, frameFc_headerBytes]

@[simp] theorem frameAddress_requestFrame : frameAddress (requestFrame hdr fc a v extra) = a := by
  simp [frameAddress, memRead16, memRead8, requestFrame, headerBytes, wordBytes]

@[simp] theorem frameValue_requestFrame : frameValue (requestFrame hdr fc a v extra) = v := by
  simp [frameValue, memRead16, memRead8, requestFrame, headerBytes, wordBytes]

theorem take_requestFrame (h : extraFits extra = true) :
    (requestFrame hdr fc a v extra).take (6 + frameLen (requestFrame hdr fc a v extra)) = requestFrame hdr fc a v extra := by
  rw [frameLen_requestFrame hdr fc a v h]
  exact List.take_of_length_le (by simp; omega)

theorem frameExtra_requestFrame (h : extraFits extra = true) : frameExtra (requestFrame hdr fc a v extra) = extra := by
  unfold frameExtra
  rw [take_requestFrame hdr fc a v h]
  rfl

/-- R81, R106: the success reply to a request is the request with its value field replaced. -/
theorem successFrame_requestFrame (h : extraFits extra = true) (r : Word) :
    Machine.successFrame (requestFrame hdr fc a v extra) r = requestFrame hdr fc a r extra := by
  unfold Machine.successFrame
  rw [take_requestFrame hdr fc a v h]
  simp [memWrite16, requestFrame, headerBytes, wordBytes]

end Request

/-- R82, R107: the exception reply to a frame, in its header fields. -/
theorem excFrame_headerBytes (hdr : Header) (len : Word) (fc : Byte) (data : Frame) (code : ExcCode) :
    Machine.excFrame (headerBytes hdr len fc ++ data) code =
      wordBytes hdr.tid ++ wordBytes hdr.pid ++ [0x00#8, 0x03#8, hdr.uid, fc ||| 0x80#8, code.toByte] := by
  simp [Machine.excFrame, memRead8, headerBytes, wordBytes]

theorem excFrame_requestFrame (hdr : Header) (fc : FunctionCode) (a v : Word) (extra : Frame) (code : ExcCode) :
    Machine.excFrame (requestFrame hdr fc a v extra) code =
      wordBytes hdr.tid ++ wordBytes hdr.pid ++ [0x00#8, 0x03#8, hdr.uid, fc.toByte ||| 0x80#8, code.toByte] := by
  rw [requestFrame_eq, excFrame_headerBytes]

/-! ### Decoded fields put back together -/

@[simp] theorem functionCodeOf_toByte (fc : FunctionCode) : functionCodeOf fc.toByte = some fc := by
  cases fc <;> rfl

theorem functionCodeOf_eq_some {b : Byte} {fc : FunctionCode} : functionCodeOf b = some fc ↔ b = fc.toByte := by
  constructor
  · unfold functionCodeOf
    split_ifs with h1 h2 <;> intro h <;> simp_all [FunctionCode.toByte] <;> subst h <;> rfl
  · rintro rfl
    simp

theorem functionCodeOf_eq_none {b : Byte} : functionCodeOf b = none ↔ b ≠ 0x03#8 ∧ b ≠ 0x06#8 := by
  unfold functionCodeOf
  split_ifs <;> simp_all

/-- A frame of at least 8 bytes is its header fields and what follows the function code. -/
theorem headerBytes_of_frame {F : Frame} (h : 8 ≤ F.length) :
    headerBytes (frameHeader F) (memRead16 F 4) (frameFc F) ++ F.drop 8 = F := by
  match F, h with
  | b0 :: b1 :: b2 :: b3 :: b4 :: b5 :: b6 :: b7 :: rest, _ =>
    simp [headerBytes, frameHeader, frameFc, memRead16, memRead8, wordBytes]

/-- A complete supported frame is the request its fields spell, followed by bytes that play no part (R111). -/
theorem requestFrame_of_frame {F : Frame} {fc : FunctionCode} (h6 : 6 ≤ frameLen F) (hn : 6 + frameLen F ≤ F.length)
    (hfc : frameFc F = fc.toByte) :
    requestFrame (frameHeader F) fc (frameAddress F) (frameValue F) (frameExtra F) = F.take (6 + frameLen F) := by
  have hL : (BitVec.ofNat 16 (6 + (frameExtra F).length)) = memRead16 F 4 := by
    apply BitVec.eq_of_toNat_eq
    have hlt : frameLen F < 65536 := (memRead16 F 4).isLt
    have : (frameExtra F).length = frameLen F - 6 := by simp [frameExtra]; omega
    rw [this, BitVec.toNat_ofNat, Nat.mod_eq_of_lt (by omega)]
    show _ = frameLen F
    omega
  rw [requestFrame_eq, hL, ← hfc]
  generalize hk : 6 + frameLen F = k
  have hk12 : 12 ≤ k := by omega
  have hkn : k ≤ F.length := by omega
  obtain ⟨j, rfl⟩ := Nat.exists_eq_add_of_le' hk12
  match F, (by omega : 12 ≤ F.length) with
  | b0 :: b1 :: b2 :: b3 :: b4 :: b5 :: b6 :: b7 :: b8 :: b9 :: b10 :: b11 :: rest, _ =>
    simp [headerBytes, frameHeader, frameFc, memRead16, memRead8, wordBytes, frameAddress, frameValue, frameExtra, hk]

/-! ### The reply frames read only the declared bytes -/

theorem memRead8_take (F : Frame) {k i : Nat} (h : i < k) : memRead8 (F.take k) i = memRead8 F i := by
  simp [memRead8, List.getD_eq_getElem?_getD, h]

theorem memRead8_append (F junk : Frame) {i : Nat} (h : i < F.length) : memRead8 (F ++ junk) i = memRead8 F i := by
  simp [memRead8, List.getD_eq_getElem?_getD, List.getElem?_append_left h]

theorem frameLen_take (F : Frame) : frameLen (F.take (6 + frameLen F)) = frameLen F := by
  unfold frameLen memRead16
  rw [memRead8_take F (by omega), memRead8_take F (by omega)]

theorem successFrame_take (F : Frame) (v : Word) :
    Machine.successFrame (F.take (6 + frameLen F)) v = Machine.successFrame F v := by
  unfold Machine.successFrame
  rw [frameLen_take, List.take_take, Nat.min_self]

theorem excFrame_take {F : Frame} (h : 2 ≤ frameLen F) (code : ExcCode) :
    Machine.excFrame (F.take (6 + frameLen F)) code = Machine.excFrame F code := by
  unfold Machine.excFrame
  rw [memRead8_take F (show 0 < 6 + frameLen F by omega), memRead8_take F (show 1 < 6 + frameLen F by omega),
    memRead8_take F (show 2 < 6 + frameLen F by omega), memRead8_take F (show 3 < 6 + frameLen F by omega),
    memRead8_take F (show 6 < 6 + frameLen F by omega), memRead8_take F (show 7 < 6 + frameLen F by omega)]

/-- The extra bytes of a complete frame fit the length field. -/
theorem extraFits_frameExtra (F : Frame) : extraFits (frameExtra F) = true := by
  have hlt : frameLen F < 65536 := (memRead16 F 4).isLt
  rw [extraFits_iff, frameExtra]
  simp only [List.length_drop, List.length_take]
  omega

end Sys2Proof
end

