-- ==== Sys2Proof/Laws/Decode.lean ====
section
/-! SUPPORT. What the decoder gives, check by check (40_frame_codec.md R100), and on the frames the encoder lays out. -/

namespace Sys2Proof

section Checks
variable {c : Config} {F : Frame}

theorem decode_of_short (h : F.length < 8 ∨ frameLen F < 2) : decode c F = .noReply F := by
  unfold decode
  rcases h with h | h <;> simp [h]

theorem decode_of_unsupported (hn : 8 ≤ F.length) (hL : 2 ≤ frameLen F) (hfc : functionCodeOf (frameFc F) = none) :
    decode c F = .unsupportedFc (frameHeader F) (memRead16 F 4) (frameFc F) (F.drop 8) := by
  unfold decode
  rw [if_neg (by omega), if_neg (by omega), hfc]

theorem decode_of_truncated {fc : FunctionCode} (hn : 8 ≤ F.length) (hL : 2 ≤ frameLen F) (hfc : frameFc F = fc.toByte)
    (h : frameLen F < 6 ∨ F.length < 6 + frameLen F) :
    decode c F = .truncated (frameHeader F) (memRead16 F 4) fc (F.drop 8) := by
  unfold decode
  rw [if_neg (by omega), if_neg (by omega), functionCodeOf_eq_some.2 hfc]
  simp only [h, if_true]

theorem decode_of_read (hL : 6 ≤ frameLen F) (hn : 6 + frameLen F ≤ F.length) (hfc : frameFc F = FunctionCode.readHolding.toByte) :
    decode c F = decodeRead c (frameHeader F) (frameAddress F) (frameValue F) (frameExtra F) := by
  unfold decode
  rw [if_neg (by omega), if_neg (by omega), functionCodeOf_eq_some.2 hfc]
  simp only [show ¬ (frameLen F < 6 ∨ F.length < 6 + frameLen F) by omega, if_false]

theorem decode_of_write (hL : 6 ≤ frameLen F) (hn : 6 + frameLen F ≤ F.length) (hfc : frameFc F = FunctionCode.writeSingle.toByte) :
    decode c F = decodeWrite c (frameHeader F) (frameAddress F) (frameValue F) (frameExtra F) := by
  unfold decode
  rw [if_neg (by omega), if_neg (by omega), functionCodeOf_eq_some.2 hfc]
  simp only [show ¬ (frameLen F < 6 ∨ F.length < 6 + frameLen F) by omega, if_false]

/-- Every frame meets the condition of exactly one row of the request map (30_encoding.md R77), in the order of R100. -/
theorem decode_cases (F : Frame) :
    (F.length < 8 ∨ frameLen F < 2)
    ∨ (8 ≤ F.length ∧ 2 ≤ frameLen F ∧ functionCodeOf (frameFc F) = none)
    ∨ (∃ fc : FunctionCode, 8 ≤ F.length ∧ 2 ≤ frameLen F ∧ frameFc F = fc.toByte ∧ (frameLen F < 6 ∨ F.length < 6 + frameLen F))
    ∨ (6 ≤ frameLen F ∧ 6 + frameLen F ≤ F.length ∧ frameFc F = FunctionCode.readHolding.toByte)
    ∨ (6 ≤ frameLen F ∧ 6 + frameLen F ≤ F.length ∧ frameFc F = FunctionCode.writeSingle.toByte) := by
  by_cases h1 : F.length < 8 ∨ frameLen F < 2
  · exact .inl h1
  rcases hfc : functionCodeOf (frameFc F) with _ | fc
  · exact .inr (.inl ⟨by omega, by omega, rfl⟩)
  rw [functionCodeOf_eq_some] at hfc
  by_cases h2 : frameLen F < 6 ∨ F.length < 6 + frameLen F
  · exact .inr (.inr (.inl ⟨fc, by omega, by omega, hfc, h2⟩))
  cases fc
  · exact .inr (.inr (.inr (.inl ⟨by omega, by omega, hfc⟩)))
  · exact .inr (.inr (.inr (.inr ⟨by omega, by omega, hfc⟩)))

end Checks

/-! ### The routing tables -/

section Routing
variable (c : Config) (hdr : Header) (v : Word) (extra : Frame)

@[simp] theorem decodeRead_addrSoc : decodeRead c hdr c.addrSoc v extra = .readSoc hdr v extra := by simp [decodeRead]

theorem decodeRead_addrPtd (h : c.addrSoc ≠ c.addrPtd) : decodeRead c hdr c.addrPtd v extra = .readPtd hdr v extra := by
  simp [decodeRead, h.symm]

theorem decodeRead_other {a : Word} (hs : a ≠ c.addrSoc) (hp : a ≠ c.addrPtd) :
    decodeRead c hdr a v extra = .readIllegal hdr a v extra := by simp [decodeRead, hs, hp]

@[simp] theorem decodeWrite_addrDbg : decodeWrite c hdr c.addrDbg v extra = .writeDbg hdr v extra := by simp [decodeWrite]

theorem decodeWrite_addrPtd (h : c.addrPtd ≠ c.addrDbg) : decodeWrite c hdr c.addrPtd v extra = .writePtd hdr v extra := by
  simp [decodeWrite, h]

theorem decodeWrite_other {a : Word} (hp : a ≠ c.addrPtd) (hd : a ≠ c.addrDbg) :
    decodeWrite c hdr a v extra = .writeIllegal hdr a v extra := by simp [decodeWrite, hp, hd]

end Routing

/-! ### Encoded requests -/

theorem decode_requestFrame_read (c : Config) (hdr : Header) (a v : Word) {extra : Frame} (h : extraFits extra = true) :
    decode c (requestFrame hdr .readHolding a v extra) = decodeRead c hdr a v extra := by
  rw [decode_of_read (by rw [frameLen_requestFrame _ _ _ _ h]; omega)
    (by rw [frameLen_requestFrame _ _ _ _ h, requestFrame_length]; omega) (by simp)]
  simp [frameExtra_requestFrame _ _ _ _ h]

theorem decode_requestFrame_write (c : Config) (hdr : Header) (a v : Word) {extra : Frame} (h : extraFits extra = true) :
    decode c (requestFrame hdr .writeSingle a v extra) = decodeWrite c hdr a v extra := by
  rw [decode_of_write (by rw [frameLen_requestFrame _ _ _ _ h]; omega)
    (by rw [frameLen_requestFrame _ _ _ _ h, requestFrame_length]; omega) (by simp)]
  simp [frameExtra_requestFrame _ _ _ _ h]

/-- What a well-formed configuration gives (00_scope.md R7). -/
theorem Config.wf_iff {c : Config} : c.wf = true ↔
    c.addrSoc ≠ c.addrPtd ∧ c.addrSoc ≠ c.addrDbg ∧ c.addrPtd ≠ c.addrDbg
    ∧ 1 ≤ c.addrSoc.toNat ∧ c.addrSoc.toNat < c.regmapN
    ∧ 1 ≤ c.addrPtd.toNat ∧ c.addrPtd.toNat < c.regmapN
    ∧ c.addrSoc ≠ 0x0063#16 ∧ c.addrPtd ≠ 0x0063#16
    ∧ 0 < c.pKw ∧ 0 < c.tChg ∧ 0 < c.tDis
    ∧ 1 ≤ c.regmapN ∧ c.regmapN ≤ 65536 := by
  simp [Config.wf]

end Sys2Proof
end

