-- ==== Sys2Proof/Laws/Meanings.lean ====
section
/-! SUPPORT. What each meaning does, once, in the updates of Laws/State.lean: later proofs cite these and do not unfold `exec`.
The served requests are given where the Register Map is canonical, the slot exists and the declared length fits. -/

namespace Sys2Proof.Machine

section Codec
variable (s : State)

theorem exec_noReply (bytes : Frame) : exec (.noReply bytes) s = .next (s.reply .noReply) := rfl

theorem exec_unsupportedFc (hdr : Header) (len : Word) (fc : Byte) (data : Frame) :
    exec (.unsupportedFc hdr len fc data) s = .next (s.raiseExc (headerBytes hdr len fc ++ data) .illegalFunction) := rfl

theorem exec_truncated (hdr : Header) (len : Word) (fc : FunctionCode) (data : Frame) :
    exec (.truncated hdr len fc data) s = .next (s.raiseExc (headerBytes hdr len fc.toByte ++ data) s.cfg.truncExc) := rfl

theorem exec_readIllegal (hdr : Header) (a v : Word) (extra : Frame) :
    exec (.readIllegal hdr a v extra) s = .next (s.raiseExc (requestFrame hdr .readHolding a v extra) .illegalDataAddress) := rfl

theorem exec_writeIllegal (hdr : Header) (a v : Word) (extra : Frame) :
    exec (.writeIllegal hdr a v extra) s = .next (s.raiseExc (requestFrame hdr .writeSingle a v extra) .illegalDataAddress) := rfl

end Codec

section Served
variable {s : State} (hm : Memory.wf s.rm = true) (hdr : Header) (v : Word) {extra : Frame} (hx : extraFits extra = true)
include hm hx

/-- A served transaction whose dispatcher has just written `w` into `slot` replies the request with `w` as its value field
(40_frame_codec.md R106, 70_reset_and_hazards.md R236). -/
theorem succeed_regWrite (fc : FunctionCode) (a : Word) {slot : Nat} (hs : slot < s.cfg.regmapN) (w : Word) :
    (s.regWrite slot w).succeed (requestFrame hdr fc a v extra) slot
      = (s.setRm (s.rm.write slot w)).reply (.frame (requestFrame hdr fc a w extra)) := by
  rw [State.succeed, State.regRead_regWrite_self hm hs, successFrame_requestFrame _ _ _ _ hx]
  simp [State.regWrite, hs]

theorem exec_readSoc (hs : s.cfg.addrSoc.toNat < s.cfg.regmapN) :
    exec (.readSoc hdr v extra) s = .next ((s.setRm (s.rm.write s.cfg.addrSoc.toNat (socValue s.soc))).reply
      (.frame (requestFrame hdr .readHolding s.cfg.addrSoc (socValue s.soc) extra))) :=
  congrArg Host.Outcome.next (succeed_regWrite hm hdr v hx .readHolding s.cfg.addrSoc hs _)

theorem exec_readPtd (hs : s.cfg.addrPtd.toNat < s.cfg.regmapN) :
    exec (.readPtd hdr v extra) s = .next ((s.setRm (s.rm.write s.cfg.addrPtd.toNat s.sp)).reply
      (.frame (requestFrame hdr .readHolding s.cfg.addrPtd s.sp extra))) :=
  congrArg Host.Outcome.next (succeed_regWrite hm hdr v hx .readHolding s.cfg.addrPtd hs _)

theorem exec_writePtd (hs : s.cfg.addrPtd.toNat < s.cfg.regmapN) :
    exec (.writePtd hdr v extra) s = .next (((s.setPowerSetpoint v).setRm (s.rm.write s.cfg.addrPtd.toNat v)).reply
      (.frame (requestFrame hdr .writeSingle s.cfg.addrPtd v extra))) :=
  congrArg Host.Outcome.next
    (succeed_regWrite (s := s.setPowerSetpoint v) hm hdr v hx .writeSingle s.cfg.addrPtd hs v)

theorem exec_writeDbg (hs : 0 < s.cfg.regmapN) :
    exec (.writeDbg hdr v extra) s = .next (((s.setDbg (!s.dbg)).setRm (s.rm.write 0 (flagWord (!s.dbg)))).reply
      (.frame (requestFrame hdr .writeSingle s.cfg.addrDbg (flagWord (!s.dbg)) extra))) :=
  congrArg Host.Outcome.next
    (succeed_regWrite (s := s.setDbg (!s.dbg)) hm hdr v hx .writeSingle s.cfg.addrDbg hs (flagWord (!s.dbg)))

end Served

/-! ### Every meaning answers a next state -/

/-- The state after `i`. -/
def after (i : Instr) (s : State) : State :=
  match exec i s with
  | .next t => t
  | .fault _ => s
  | .refused _ => s

theorem exec_tick_eq (s : State) : exec .tick s = .next (after .tick s) := by
  unfold after exec execTick
  cases s.mode <;> rfl

/-- No meaning ends in a fault or a refusal (60_exceptions.md R207). -/
theorem exec_eq_after (i : Instr) (s : State) : exec i s = .next (after i s) := by
  cases i <;> first | rfl | exact exec_tick_eq s

theorem after_of_exec {i : Instr} {s t : State} (h : exec i s = .next t) : after i s = t := by
  simp [after, h]

/-- What every instruction keeps: the configuration and the host's later inputs. -/
@[simp] theorem after_cfg (i : Instr) (s : State) : (after i s).cfg = s.cfg := by
  cases i <;> simp [after, exec, execNoReply, execUnsupportedFc, execTruncated, execReadSoc, execReadPtd, execReadIllegal,
    execWritePtd, execWriteDbg, execWriteIllegal, execTick, execReset]
  split <;> rename_i h <;> split at h <;> simp_all <;> subst h <;> rfl

@[simp] theorem after_inputs (i : Instr) (s : State) : (after i s).inputs = s.inputs := by
  cases i <;> simp [after, exec, execNoReply, execUnsupportedFc, execTruncated, execReadSoc, execReadPtd, execReadIllegal,
    execWritePtd, execWriteDbg, execWriteIllegal, execTick, execReset]
  split <;> rename_i h <;> split at h <;> simp_all <;> subst h <;> rfl

/-! ### The tick, by mode -/

section Tick
variable {s : State}

theorem exec_tick_idle (h : s.mode = .idle) : exec .tick s = .next s := by simp [exec, execTick, h]

theorem exec_tick_charging (h : s.mode = .charging) :
    exec .tick s = .next (if s.soc + s.rate > 100 then (s.setSoc 100).setMode .idle else s.setSoc (s.soc + s.rate)) := by
  simp only [exec, execTick, h, chargingTick]
  split_ifs
  · rfl
  · rw [← h]; rfl

theorem exec_tick_discharging (h : s.mode = .discharging) :
    exec .tick s = .next (if s.soc - s.rate < 0 then (s.setSoc 0).setMode .idle else s.setSoc (s.soc - s.rate)) := by
  simp only [exec, execTick, h, dischargingTick]
  split_ifs
  · rfl
  · rw [← h]; rfl

end Tick

end Sys2Proof.Machine
end

