-- ==== Sys2Proof/Laws/PerInstr.lean ====
section
/-! SUPPORT. Statements about every instruction as syntax, one lemma per constructor. -/

namespace Sys2Proof.Laws.EncodesFunctionCode

/-- 40_frame_codec.md R101: of the instructions that a frame spells, only NO_REPLY is spelt without a function code, that is in
fewer than 8 bytes or with a length field below 2. -/
def Statement (i : Instr) : Prop :=
  ∀ (c : Config) (F : Frame), i.wellFormed c = true → encode c i = .frame F →
    (8 ≤ F.length ∧ 2 ≤ frameLen F) ∨ ∃ bytes, i = .noReply bytes

/-- The frame of a served or refused request has its function code. -/
theorem requestFrame_hasFunctionCode {hdr : Header} {fc : FunctionCode} {a v : Word} {extra F : Frame}
    (hx : extraFits extra = true) (h : Input.frame (requestFrame hdr fc a v extra) = .frame F) :
    8 ≤ F.length ∧ 2 ≤ frameLen F := by
  cases h
  rw [frameLen_requestFrame _ _ _ _ hx, requestFrame_length]
  omega

theorem noReply (bytes : Frame) : Statement (.noReply bytes) := fun _ _ _ _ => .inr ⟨bytes, rfl⟩

theorem unsupportedFc (hdr : Header) (len : Word) (fc : Byte) (data : Frame) : Statement (.unsupportedFc hdr len fc data) := by
  intro c F hw h
  cases h
  simp only [Instr.wellFormed, decide_eq_true_eq] at hw
  exact .inl ⟨by simp, by simpa using hw.1⟩

theorem truncated (hdr : Header) (len : Word) (fc : FunctionCode) (data : Frame) : Statement (.truncated hdr len fc data) := by
  intro c F hw h
  cases h
  simp only [Instr.wellFormed, decide_eq_true_eq] at hw
  exact .inl ⟨by simp, by simpa using hw.1⟩

theorem readSoc (hdr : Header) (v : Word) (extra : Frame) : Statement (.readSoc hdr v extra) :=
  fun _ _ hw h => .inl (requestFrame_hasFunctionCode hw h)

theorem readPtd (hdr : Header) (v : Word) (extra : Frame) : Statement (.readPtd hdr v extra) :=
  fun _ _ hw h => .inl (requestFrame_hasFunctionCode hw h)

theorem readIllegal (hdr : Header) (a v : Word) (extra : Frame) : Statement (.readIllegal hdr a v extra) :=
  fun _ _ hw h => .inl (requestFrame_hasFunctionCode (Bool.and_eq_true_iff.1 hw).2 h)

theorem writePtd (hdr : Header) (v : Word) (extra : Frame) : Statement (.writePtd hdr v extra) :=
  fun _ _ hw h => .inl (requestFrame_hasFunctionCode hw h)

theorem writeDbg (hdr : Header) (v : Word) (extra : Frame) : Statement (.writeDbg hdr v extra) :=
  fun _ _ hw h => .inl (requestFrame_hasFunctionCode hw h)

theorem writeIllegal (hdr : Header) (a v : Word) (extra : Frame) : Statement (.writeIllegal hdr a v extra) :=
  fun _ _ hw h => .inl (requestFrame_hasFunctionCode (Bool.and_eq_true_iff.1 hw).2 h)

theorem tick : Statement .tick := fun _ _ _ h => nomatch h

theorem reset : Statement .reset := fun _ _ _ h => nomatch h

end Sys2Proof.Laws.EncodesFunctionCode
end

