-- ==== Sys2Proof/Laws/Step.lean ====
section
/-! SUPPORT. What a step can do, once, and what follows for runs. -/

namespace Sys2Proof.Machine

theorem step_of_input {s : State} {inp : Input} {rest : List Input} (hc : s.cfg.wf = true) (h : s.inputs = inp :: rest) :
    step s = exec (decodeInput s.cfg inp) (s.setInputs rest) := by
  simp [step, hc, State.nextInstr, h]

theorem step_of_no_input {s : State} (hc : s.cfg.wf = true) (h : s.inputs = []) : step s = .next s := by
  simp [step, hc, State.nextInstr, h]

/-- Everything a step that goes on can have done. -/
theorem step_cases {s t : State} (h : step s = .next t) :
    s.cfg.wf = true ∧ ((s.inputs = [] ∧ t = s) ∨
      ∃ inp rest, s.inputs = inp :: rest ∧ t = after (decodeInput s.cfg inp) (s.setInputs rest)) := by
  by_cases hc : s.cfg.wf = true
  · refine ⟨hc, ?_⟩
    cases hi : s.inputs with
    | nil =>
      rw [step_of_no_input hc hi] at h
      exact .inl ⟨rfl, (Host.Outcome.next.inj h).symm⟩
    | cons inp rest =>
      rw [step_of_input hc hi, exec_eq_after] at h
      exact .inr ⟨inp, rest, rfl, (Host.Outcome.next.inj h).symm⟩
  · simp [step, hc] at h

/-- The state after a step of a well-formed configuration. -/
def stepNext (s : State) : State :=
  match s.inputs with
  | [] => s
  | inp :: rest => after (decodeInput s.cfg inp) (s.setInputs rest)

theorem step_eq_stepNext {s : State} (hc : s.cfg.wf = true) : step s = .next (stepNext s) := by
  unfold stepNext
  cases hi : s.inputs with
  | nil => exact step_of_no_input hc hi
  | cons inp rest => rw [step_of_input hc hi, exec_eq_after]

@[simp] theorem stepNext_cfg (s : State) : (stepNext s).cfg = s.cfg := by
  unfold stepNext
  split <;> simp

@[simp] theorem run_zero (s : State) : run 0 s = .next s := rfl

theorem coreRun_of_next (M : Host.Core) {k : Nat} {s t : M.State} (h : M.step s = .next t) : M.run (k + 1) s = M.run k t := by
  rw [Host.Core.run, h]

theorem coreRun_of_refused (M : Host.Core) {k : Nat} {s : M.State} {r : M.Refusal} (h : M.step s = .refused r) :
    M.run (k + 1) s = .refused r := by
  rw [Host.Core.run, h]

/-- A run takes one step and then the rest. -/
theorem run_succ {s : State} (hc : s.cfg.wf = true) (k : Nat) : run (k + 1) s = run k (stepNext s) :=
  coreRun_of_next Sys2Proof.core (step_eq_stepNext hc)

/-- A configuration that is not well formed has no run (00_scope.md R7). -/
theorem run_of_illFormed {s : State} (hc : s.cfg.wf ≠ true) (k : Nat) : run (k + 1) s = .refused .illFormedConfig :=
  coreRun_of_refused Sys2Proof.core (show step s = .refused .illFormedConfig by simp [step, hc])

/-- A run of `j + k` steps is a run of `j` and then one of `k`. -/
theorem run_add {j : Nat} (k : Nat) {s t : State} (hc : s.cfg.wf = true) (h : run j s = .next t) : run (j + k) s = run k t := by
  induction j generalizing s with
  | zero =>
    obtain rfl : s = t := Host.Outcome.next.inj h
    rw [Nat.zero_add]
  | succ j ih =>
    rw [run_succ hc] at h
    rw [Nat.add_right_comm, run_succ hc]
    exact ih (by simpa using hc) h

/-- A property that every step keeps holds after any number of steps. -/
theorem run_keeps {P : State → Prop} (keep : ∀ {s t}, P s → step s = .next t → P t) {k : Nat} {s t : State} (hs : P s)
    (h : run k s = .next t) : P t := by
  induction k generalizing s with
  | zero => exact Host.Outcome.next.inj h ▸ hs
  | succ k ih =>
    by_cases hc : s.cfg.wf = true
    · rw [run_succ hc] at h
      exact ih (keep hs (step_eq_stepNext hc)) h
    · rw [run_of_illFormed hc] at h
      cases h

/-- The state after a step whose input is a frame, a tick or a reset. -/
theorem stepNext_of_input {s : State} {inp : Input} {rest : List Input} (h : s.inputs = inp :: rest) :
    stepNext s = after (decodeInput s.cfg inp) (s.setInputs rest) := by
  simp [stepNext, h]

/-! ### A step that takes a tick, by mode and bound (43_tick.md R181 to R183) -/

section Tick
variable {s : State} {rest : List Input} (hi : s.inputs = .tick :: rest)
include hi

theorem stepNext_tick_idle (hm : s.mode = .idle) : stepNext s = s.setInputs rest := by
  rw [stepNext_of_input hi]
  exact after_of_exec (exec_tick_idle hm)

theorem stepNext_tick_charging (hm : s.mode = .charging) (hb : s.soc + s.rate ≤ 100) :
    stepNext s = (s.setInputs rest).setSoc (s.soc + s.rate) := by
  rw [stepNext_of_input hi]
  refine after_of_exec ((exec_tick_charging (s := s.setInputs rest) hm).trans ?_)
  exact congrArg _ (if_neg (not_lt.2 hb))

theorem stepNext_tick_charging_clamps (hm : s.mode = .charging) (hb : 100 < s.soc + s.rate) :
    stepNext s = ((s.setInputs rest).setSoc 100).setMode .idle := by
  rw [stepNext_of_input hi]
  refine after_of_exec ((exec_tick_charging (s := s.setInputs rest) hm).trans ?_)
  exact congrArg _ (if_pos hb)

theorem stepNext_tick_discharging (hm : s.mode = .discharging) (hb : 0 ≤ s.soc - s.rate) :
    stepNext s = (s.setInputs rest).setSoc (s.soc - s.rate) := by
  rw [stepNext_of_input hi]
  refine after_of_exec ((exec_tick_discharging (s := s.setInputs rest) hm).trans ?_)
  exact congrArg _ (if_neg (not_lt.2 hb))

theorem stepNext_tick_discharging_clamps (hm : s.mode = .discharging) (hb : s.soc - s.rate < 0) :
    stepNext s = ((s.setInputs rest).setSoc 0).setMode .idle := by
  rw [stepNext_of_input hi]
  refine after_of_exec ((exec_tick_discharging (s := s.setInputs rest) hm).trans ?_)
  exact congrArg _ (if_pos hb)

end Tick

end Sys2Proof.Machine
end

