-- ==== Sys2Proof/Tests/Slice0.lean ====
section
/-! SUPPORT. The model's own tests. Expected values are those of spec/95_test_vectors.md (its ids in the comments), under EX. -/

namespace Sys2Proof.Tests
open Sys2Proof.Machine

/-! ### Helpers -/

/-- The next state, where there is one. -/
def got : Host.Outcome State Fault Refusal → Option State
  | .next s => some s
  | .fault _ => none
  | .refused _ => none

/-- The state after a step on one frame. -/
def onFrame (s : State) (F : Frame) : Option State := got (step (s.setInputs [.frame F]))

/-- What a step on one frame puts on `RSP`. -/
def replyTo (s : State) (F : Frame) : Option (List Reply) := (onFrame s F).map (fun t => t.rsp)

/-- A battery state under EX. -/
def battery (m : Mode) (soc rate : Rat) : State := ((State.reset.setMode m).setSoc soc).setRate rate

/-- `soc` and `mode` after one tick. -/
def afterTick (s : State) : Option (Rat × Mode) := (got (exec .tick s)).map (fun t => (t.soc, t.mode))

/-- `RD a` and `WR a, v` with transaction id 1 (30_encoding.md R84), by hand. -/
def rd (ah al : Byte) : Frame := [0x00, 0x01, 0x00, 0x00, 0x00, 0x06, 0x01, 0x03, ah, al, 0x00, 0x01]
def wr (ah al vh vl : Byte) : Frame := [0x00, 0x01, 0x00, 0x00, 0x00, 0x06, 0x01, 0x06, ah, al, vh, vl]

/-! ### WellFormed refuses, check by check -/

theorem test_wf_noReply_with_function_code : (Instr.noReply (rd 0 1)).wellFormed Config.ex = false := by decide
theorem test_wf_noReply_short : (Instr.noReply [0x00]).wellFormed Config.ex = true := by decide
theorem test_wf_unsupportedFc_short_length : (Instr.unsupportedFc ⟨0, 0, 0⟩ 1 0x10 []).wellFormed Config.ex = false := by decide
theorem test_wf_unsupportedFc_supported_code : (Instr.unsupportedFc ⟨0, 0, 0⟩ 6 0x06 []).wellFormed Config.ex = false := by decide
theorem test_wf_truncated_short_length : (Instr.truncated ⟨0, 0, 0⟩ 1 .readHolding []).wellFormed Config.ex = false := by decide
theorem test_wf_truncated_complete : (Instr.truncated ⟨0, 0, 0⟩ 6 .readHolding [0, 1, 0, 1]).wellFormed Config.ex = false := by decide
theorem test_wf_readIllegal_legal : (Instr.readIllegal ⟨0, 0, 0⟩ 1 0 []).wellFormed Config.ex = false := by decide
theorem test_wf_readIllegal_legal_ptd : (Instr.readIllegal ⟨0, 0, 0⟩ 2 0 []).wellFormed Config.ex = false := by decide
theorem test_wf_writeIllegal_legal : (Instr.writeIllegal ⟨0, 0, 0⟩ 2 0 []).wellFormed Config.ex = false := by decide
theorem test_wf_writeIllegal_legal_dbg : (Instr.writeIllegal ⟨0, 0, 0⟩ 0 0 []).wellFormed Config.ex = false := by decide

/-- An instruction whose data does not fit the length field is refused, in each of the six kinds that have such data. -/
theorem test_wf_extra_too_long (extra : Frame) (h : extra.length = 65530) (hdr : Header) (a v : Word) :
    (Instr.readSoc hdr v extra).wellFormed Config.ex = false ∧ (Instr.readPtd hdr v extra).wellFormed Config.ex = false
    ∧ (Instr.readIllegal hdr a v extra).wellFormed Config.ex = false ∧ (Instr.writePtd hdr v extra).wellFormed Config.ex = false
    ∧ (Instr.writeDbg hdr v extra).wellFormed Config.ex = false ∧ (Instr.writeIllegal hdr a v extra).wellFormed Config.ex = false := by
  simp [Instr.wellFormed, extraFits, h]

/-- R7: one configuration for each condition that breaks it. -/
theorem test_config_refused :
    Config.ex.wf = true
    ∧ (Config.wf { Config.ex with addrSoc := 2 } = false) ∧ (Config.wf { Config.ex with addrDbg := 1 } = false)
    ∧ (Config.wf { Config.ex with addrDbg := 2 } = false)
    ∧ (Config.wf { Config.ex with addrSoc := 0, addrDbg := 5 } = false) ∧ (Config.wf { Config.ex with addrPtd := 0, addrDbg := 5 } = false)
    ∧ (Config.wf { Config.ex with addrSoc := 0xFFFF } = false) ∧ (Config.wf { Config.ex with addrPtd := 0xFFFF } = false)
    ∧ (Config.wf { Config.ex with addrSoc := 0x63 } = false) ∧ (Config.wf { Config.ex with addrPtd := 0x63 } = false)
    ∧ (Config.wf { Config.ex with pKw := 0 } = false) ∧ (Config.wf { Config.ex with tChg := 0 } = false)
    ∧ (Config.wf { Config.ex with tDis := 0 } = false) ∧ (Config.wf { Config.ex with regmapN := 65537 } = false) := by decide

/-! ### Decoding, from bytes written out by hand -/

theorem test_decode_codec :
    decode Config.ex [0x00, 0x02, 0x00, 0x00, 0x00, 0x01, 0x01, 0x03] = .noReply [0x00, 0x02, 0x00, 0x00, 0x00, 0x01, 0x01, 0x03]
    ∧ decode Config.ex [0x00, 0x03, 0x00, 0x00, 0x00, 0x06, 0x01, 0x83, 0x00, 0x01, 0x00, 0x01]
        = .unsupportedFc ⟨3, 0, 1⟩ 6 0x83 [0x00, 0x01, 0x00, 0x01]
    ∧ decode Config.ex [0x00, 0x05, 0x00, 0x00, 0x00, 0x06, 0x01, 0x06, 0x00, 0x02, 0xFF]
        = .truncated ⟨5, 0, 1⟩ 6 .writeSingle [0x00, 0x02, 0xFF] := by decide

theorem test_decode_requests :
    decode Config.ex [0x12, 0x34, 0x56, 0x78, 0x00, 0x06, 0x9A, 0x03, 0x00, 0x01, 0xBE, 0xEF] = .readSoc ⟨0x1234, 0x5678, 0x9A⟩ 0xBEEF []
    ∧ decode Config.ex (rd 0x00 0x02) = .readPtd ⟨1, 0, 1⟩ 1 []
    ∧ decode Config.ex (rd 0xFF 0xFF) = .readIllegal ⟨1, 0, 1⟩ 0xFFFF 1 []
    ∧ decode Config.ex (wr 0x00 0x02 0xFF 0x1A) = .writePtd ⟨1, 0, 1⟩ 0xFF1A []
    ∧ decode Config.ex (wr 0x00 0x00 0x12 0x34) = .writeDbg ⟨1, 0, 1⟩ 0x1234 []
    ∧ decode Config.ex (wr 0x00 0x63 0xFF 0xFF) = .writeIllegal ⟨1, 0, 1⟩ 0x63 0xFFFF [] := by decide

/-- R77: TICK and RESET are events and have no frame. -/
theorem test_decode_events : decodeInput Config.ex .tick = .tick ∧ decodeInput Config.ex .reset = .reset := by decide

/-- Table words: eight bits are the function code, 96 bits the whole frame (log 5). -/
theorem test_decodeTableWord :
    decodeTableWord 8 0x03 = some (.readIllegal ⟨0, 0, 0⟩ 0 0 []) ∧ decodeTableWord 8 0x06 = some (.writeDbg ⟨0, 0, 0⟩ 0 [])
    ∧ decodeTableWord 8 0x10 = some (.unsupportedFc ⟨0, 0, 0⟩ 6 0x10 [0, 0, 0, 0]) ∧ decodeTableWord 0 0 = some (.noReply [])
    ∧ decodeTableWord 96 0x000100000006010300010001 = some (.readSoc ⟨1, 0, 1⟩ 1 []) := by decide

theorem test_withFetchWord_runs :
    (got (step (State.reset.withFetchWord 96 0x000100000006010300010001))).map (fun t => t.rsp)
      = some [.frame [0x00, 0x01, 0x00, 0x00, 0x00, 0x06, 0x01, 0x03, 0x00, 0x01, 0x01, 0xF4]]
    ∧ (got (step (State.reset.withFetchWord 8 0x06))).map (fun t => t.dbg) = some true := by decide +kernel

/-! ### One step each, from the vectors -/

-- V-F2, V-F4
theorem test_noReply_seven_bytes : replyTo State.reset [0x00, 0x01, 0x00, 0x00, 0x00, 0x06, 0x01] = some [.noReply] := by decide +kernel
theorem test_noReply_length_zero :
    (onFrame State.reset [0x00, 0x02, 0x00, 0x00, 0x00, 0x00, 0x01, 0x06, 0x00, 0x02, 0xFF, 0x1A]).map (fun t => (t.rsp, t.sp))
      = some ([.noReply], 0) := by decide +kernel

-- S9, V-F6
theorem test_unsupportedFc_write_multiple :
    replyTo State.reset [0x00, 0x05, 0x00, 0x00, 0x00, 0x09, 0x01, 0x10, 0x00] = some [.frame [0x00, 0x05, 0x00, 0x00, 0x00, 0x03, 0x01, 0x90, 0x01]] := by
  decide +kernel
theorem test_unsupportedFc_high_bit_set :
    replyTo State.reset [0x00, 0x03, 0x00, 0x00, 0x00, 0x06, 0x01, 0x83, 0x00, 0x01, 0x00, 0x01]
      = some [.frame [0x00, 0x03, 0x00, 0x00, 0x00, 0x03, 0x01, 0x83, 0x01]] := by decide +kernel

-- V-F11, and V-F9 with the other value of TRUNC_EXC
theorem test_truncated_declared_length_governs :
    (onFrame State.reset [0x00, 0x06, 0x00, 0x00, 0x00, 0x05, 0x01, 0x06, 0x00, 0x02, 0xFF, 0x1A]).map (fun t => (t.rsp, t.mode))
      = some ([.frame [0x00, 0x06, 0x00, 0x00, 0x00, 0x03, 0x01, 0x86, 0x01]], .idle) := by decide +kernel
theorem test_truncated_other_code :
    replyTo (State.init { Config.ex with truncExc := .illegalDataAddress }) [0x00, 0x08, 0x00, 0x00, 0x00, 0x04, 0x01, 0x03, 0x00, 0x01]
      = some [.frame [0x00, 0x08, 0x00, 0x00, 0x00, 0x03, 0x01, 0x83, 0x02]] := by decide +kernel

-- V-F15, and V-T18 with R135's tie
theorem test_readSoc_long_frame :
    (onFrame State.reset [0x00, 0x0C, 0x00, 0x00, 0x00, 0x08, 0x01, 0x03, 0x00, 0x01, 0x00, 0x01, 0xAA, 0xBB]).map (fun t => (t.rsp, t.rm))
      = some ([.frame [0x00, 0x0C, 0x00, 0x00, 0x00, 0x08, 0x01, 0x03, 0x00, 0x01, 0x01, 0xF4, 0xAA, 0xBB]], [(1, 0x01F4)]) := by decide +kernel
theorem test_readSoc_tie_rounds_up :
    replyTo (battery .idle (999 / 20) 0) (rd 0x00 0x01)
      = some [.frame [0x00, 0x01, 0x00, 0x00, 0x00, 0x06, 0x01, 0x03, 0x00, 0x01, 0x01, 0xF4]] := by decide +kernel

-- V-R6, V-R5
theorem test_readPtd_extreme_setpoint :
    (onFrame ((battery .idle 100 0).setSp 0x8000) (rd 0x00 0x02)).map (fun t => (t.rsp, t.rm))
      = some ([.frame [0x00, 0x01, 0x00, 0x00, 0x00, 0x06, 0x01, 0x03, 0x00, 0x02, 0x80, 0x00]], [(2, 0x8000)]) := by decide +kernel
theorem test_readPtd_after_reset :
    (onFrame State.reset (rd 0x00 0x02)).map (fun t => (t.rsp, t.rm))
      = some ([.frame [0x00, 0x01, 0x00, 0x00, 0x00, 0x06, 0x01, 0x03, 0x00, 0x02, 0x00, 0x00]], []) := by decide +kernel

-- V-F14, V-R7
theorem test_readIllegal_echoes_ids :
    replyTo State.reset [0x00, 0x07, 0xAB, 0xCD, 0x00, 0x06, 0xFF, 0x03, 0x00, 0x63, 0x00, 0x00]
      = some [.frame [0x00, 0x07, 0xAB, 0xCD, 0x00, 0x03, 0xFF, 0x83, 0x02]] := by decide +kernel
theorem test_readIllegal_debug_address :
    replyTo State.reset (rd 0x00 0x00) = some [.frame [0x00, 0x01, 0x00, 0x00, 0x00, 0x03, 0x01, 0x83, 0x02]] := by decide +kernel

-- V-F17, V-W2
theorem test_writePtd_reply_is_request :
    replyTo State.reset [0x00, 0x09, 0x00, 0x00, 0x00, 0x07, 0x01, 0x06, 0x00, 0x02, 0xFF, 0x1A, 0x55]
      = some [.frame [0x00, 0x09, 0x00, 0x00, 0x00, 0x07, 0x01, 0x06, 0x00, 0x02, 0xFF, 0x1A, 0x55]] := by decide +kernel
theorem test_writePtd_most_negative :
    (onFrame State.reset (wr 0x00 0x02 0x80 0x00)).map (fun t => (t.mode, t.rate, t.sp, t.soc))
      = some (.charging, 16384 / 115, 0x8000, 50) := by decide +kernel

-- V-W9, V-W10
theorem test_writeDbg_sets :
    (onFrame State.reset (wr 0x00 0x00 0x12 0x34)).map (fun t => (t.rsp, t.debugTrace, t.rm))
      = some ([.frame [0x00, 0x01, 0x00, 0x00, 0x00, 0x06, 0x01, 0x06, 0x00, 0x00, 0x00, 0x01]], true, [(0, 1)]) := by decide +kernel
theorem test_writeDbg_clears :
    (onFrame ((State.reset.setDbg true).setRm [(0, 1)]) (wr 0x00 0x00 0x00 0x01)).map (fun t => (t.rsp, t.debugTrace, t.rm))
      = some ([.frame [0x00, 0x01, 0x00, 0x00, 0x00, 0x06, 0x01, 0x06, 0x00, 0x00, 0x00, 0x00]], false, []) := by decide +kernel

-- V-W11, V-W13
theorem test_writeIllegal_read_only :
    (onFrame State.reset (wr 0x00 0x01 0x00 0x64)).map (fun t => (t.rsp, t.soc))
      = some ([.frame [0x00, 0x01, 0x00, 0x00, 0x00, 0x03, 0x01, 0x86, 0x02]], 50) := by decide +kernel
theorem test_writeIllegal_out_of_map :
    replyTo State.reset (wr 0xFF 0xFF 0x00 0x01) = some [.frame [0x00, 0x01, 0x00, 0x00, 0x00, 0x03, 0x01, 0x86, 0x02]] := by decide +kernel

-- V-T3, V-T7
theorem test_tick_clamps_past_bound : afterTick (battery .charging (199 / 2) 1) = some (100, .idle) := by decide +kernel
theorem test_tick_lands_on_bound : afterTick (battery .discharging (1 / 2) (1 / 2)) = some (0, .discharging) := by decide +kernel

-- V-X1
theorem test_reset_from_used_state :
    got (exec .reset ((((battery .idle 100 (16384 / 115)).setSp 0x8000).setDbg true).setRm [(0, 1), (1, 0x03E8), (2, 0x8000)]))
      = some State.reset := by decide +kernel

/-! ### Witnesses: a state and operands that meet the hypotheses of each statement, and of each of its clauses -/

/-- One step and one run of the witnesses below. -/
def loaded (l : List Input) : State := State.initWith Config.ex l

theorem witness_DecodeEncodeRoundTrip :
    Config.ex.wf = true ∧ (Instr.writeIllegal ⟨0xFFFF, 0xFFFF, 0xFF⟩ 0xFFFF 0xFFFF [0xFF]).wellFormed Config.ex = true
    ∧ (Instr.truncated ⟨0, 0, 0⟩ 2 .writeSingle []).wellFormed Config.ex = true
    ∧ (Instr.truncated ⟨0, 0, 0⟩ 0xFFFF .readHolding []).wellFormed Config.ex = true
    ∧ (Instr.unsupportedFc ⟨0, 0, 0⟩ 2 0xFF []).wellFormed Config.ex = true
    ∧ (Instr.noReply [0, 0, 0, 0, 0, 1, 0, 3]).wellFormed Config.ex = true ∧ (Instr.readSoc ⟨0, 0, 0⟩ 0 []).wellFormed Config.ex = true := by
  decide

/-- One frame for each clause of `RequestMapSelectsKind`, at the bounds of its condition. -/
theorem witness_RequestMapSelectsKind :
    ([] : Frame).length < 8 ∧ (memRead16 [0, 0, 0, 0, 0, 1, 0, 3] 4).toNat < 2
    ∧ (memRead8 [0, 0, 0, 0, 0, 2, 0, 4] 7 ≠ 0x03#8 ∧ 2 ≤ (memRead16 [0, 0, 0, 0, 0, 2, 0, 4] 4).toNat)
    ∧ (memRead8 [0, 0, 0, 0, 0, 5, 0, 3] 7 = 0x03#8 ∧ (memRead16 [0, 0, 0, 0, 0, 5, 0, 3] 4).toNat < 6)
    ∧ ((wr 0 2 0 0).dropLast.length < 6 + (memRead16 (wr 0 2 0 0).dropLast 4).toNat ∧ memRead8 (wr 0 2 0 0).dropLast 7 = 0x06#8)
    ∧ memRead16 (rd 0 1) 8 = Config.ex.addrSoc ∧ memRead16 (rd 0 2) 8 = Config.ex.addrPtd
    ∧ (memRead16 (rd 0 0) 8 ≠ Config.ex.addrSoc ∧ memRead16 (rd 0 0) 8 ≠ Config.ex.addrPtd)
    ∧ memRead16 (wr 0 2 0 0) 8 = Config.ex.addrPtd ∧ memRead16 (wr 0 0 0 0) 8 = Config.ex.addrDbg
    ∧ (memRead16 (wr 0 1 0 0) 8 ≠ Config.ex.addrPtd ∧ memRead16 (wr 0 1 0 0) 8 ≠ Config.ex.addrDbg)
    ∧ 6 + (memRead16 (rd 0 0) 4).toNat ≤ (rd 0 0).length ∧ 6 + (memRead16 (wr 0 0 0 0) 4).toNat ≤ (wr 0 0 0 0).length := by
  decide

theorem witness_BytesAfterDeclaredFrameIgnored :
    6 + frameLen (rd 0 1) ≤ (rd 0 1).length ∧ 6 + frameLen [0, 0, 0, 0, 0, 0] ≤ [0, 0, 0, 0, 0, 0].length := by decide

theorem witness_StepRunsDecodedInput :
    (loaded [.tick]).cfg.wf = true ∧ (loaded [.tick]).inputs = .tick :: [] ∧ (loaded [.frame (rd 0 1)]).inputs = .frame (rd 0 1) :: [] := by
  decide

theorem witness_StepWithoutInputWaits : State.reset.cfg.wf = true ∧ State.reset.inputs = [] := by decide

theorem witness_RunNeverStops : (loaded [.tick, .reset]).cfg.wf = true := by decide

/-- `ConfigurationIsConstant`, `OnlyTickAndResetWriteSoc`, `StatusElementWriters`: an instruction that answers a next state. -/
theorem witness_next_states :
    exec .tick State.reset = .next State.reset
    ∧ exec (.noReply []) State.reset = .next (State.reset.reply .noReply) := ⟨rfl, rfl⟩

theorem witness_RegisterAccessIsRangeChecked :
    Memory.wf State.reset.rm = true ∧ 65534 < State.reset.cfg.regmapN ∧ State.reset.cfg.regmapN ≤ 65535 ∧ Config.ex.wf = true := by decide

theorem witness_EqualRegisterMapsAreEqualData : Memory.wf [(0, 1), (2, 0x8000)] = true ∧ Memory.wf [] = true := by decide

/-- `ExceptionReplyLayout`, `SuccessReplyLayout`: a frame with and one without bit 7 in its function code. -/
theorem witness_reply_layouts :
    8 ≤ (rd 0 1).length ∧ 8 ≤ [0x00, 0x03, 0x00, 0x00, 0x00, 0x06, 0x01, 0x83].length
    ∧ (memRead8 [0x00, 0x03, 0x00, 0x00, 0x00, 0x06, 0x01, 0x83] 7)[7] = true
    ∧ 6 ≤ frameLen (rd 0 1) ∧ 6 + frameLen (rd 0 1) ≤ (rd 0 1).length := by decide

/-- `NoReplyResult`, `UnsupportedFcResult`, `TruncatedResult`. -/
theorem witness_codec_results :
    (8 ≤ [0, 0, 0, 0, 0, 1, 0, 3].length ∧ (memRead16 [0, 0, 0, 0, 0, 1, 0, 3] 4).toNat < 2)
    ∧ (2 ≤ (memRead16 [0, 0, 0, 0, 0, 2, 0, 0] 4).toNat ∧ memRead8 [0, 0, 0, 0, 0, 2, 0, 0] 7 ≠ 0x03#8 ∧ memRead8 [0, 0, 0, 0, 0, 2, 0, 0] 7 ≠ 0x06#8)
    ∧ (memRead8 [0, 0, 0, 0, 0, 2, 0, 3] 7 = 0x03#8 ∧ (memRead16 [0, 0, 0, 0, 0, 2, 0, 3] 4).toNat < 6)
    ∧ (memRead8 (wr 0 2 0 0).dropLast 7 = 0x06#8 ∧ (wr 0 2 0 0).dropLast.length < 6 + (memRead16 (wr 0 2 0 0).dropLast 4).toNat) := by decide

/-- `OutcomePriority`: the spec's own two frames of R203, which meet two conditions each, and one for each later clause. -/
theorem witness_OutcomePriority :
    (∃ t, exec (decode State.reset.cfg [0, 1, 0, 0, 0, 3, 1, 0x10, 0]) State.reset = .next t)
    ∧ (memRead8 [0, 1, 0, 0, 0, 3, 1, 0x10, 0] 7 ≠ 0x03#8 ∧ memRead8 [0, 1, 0, 0, 0, 3, 1, 0x10, 0] 7 ≠ 0x06#8)
    ∧ (memRead8 [0, 1, 0, 0, 0, 4, 1, 3, 0, 0x63] 7 = 0x03#8 ∧ (memRead16 [0, 1, 0, 0, 0, 4, 1, 3, 0, 0x63] 4).toNat < 6)
    ∧ (memRead16 (rd 0 0x63) 8 ≠ Config.ex.addrSoc ∧ memRead16 (rd 0 0x63) 8 ≠ Config.ex.addrPtd)
    ∧ memRead16 (rd 0 1) 8 = Config.ex.addrSoc := ⟨⟨_, rfl⟩, by decide⟩

theorem witness_RejectedTransactionWritesNoState :
    ∃ t, step (loaded [.frame (rd 0 0)]) = .next t ∧ decode Config.ex (rd 0 0) = .readIllegal ⟨1, 0, 1⟩ 0 1 []
      ∧ t.rsp = (loaded [.frame (rd 0 0)]).rsp ++ [.frame (excFrame (rd 0 0) .illegalDataAddress)] := ⟨_, rfl, by decide, rfl⟩

theorem witness_RepliesFollowFrames :
    (loaded ([rd 0 1, rd 0 2].map .frame)).cfg.wf = true
    ∧ (loaded ([rd 0 1, rd 0 2].map .frame)).inputs = [rd 0 1, rd 0 2].map .frame := by decide

/-- `ReadSocResult`, `ReadPtdResult`, `ReadIllegalResult`, `ReadValueFieldIgnored`, `WritePtdResult`, `WriteDbgResult`,
`WriteIllegalResult`: the state, the data, a frame of each kind, and a configuration in which `ADDR_DBG` is not slot 0 and one in which an address is out of the map. -/
theorem witness_served_results :
    State.reset.cfg.wf = true ∧ Memory.wf State.reset.rm = true ∧ ([0xAA, 0xBB] : Frame).length + 6 < 65536
    ∧ 6 ≤ frameLen (rd 0 1) ∧ 6 + frameLen (rd 0 1) ≤ (rd 0 1).length ∧ memRead8 (rd 0 1) 7 = 0x03#8 ∧ memRead8 (wr 0 0 0 0) 7 = 0x06#8
    ∧ 6 ≤ frameLen (wr 0 0 0 0) ∧ 6 + frameLen (wr 0 0 0 0) ≤ (wr 0 0 0 0).length
    ∧ (Config.wf { Config.ex with addrDbg := 0x10 } = true ∧ memRead16 (wr 0 0 0 0) 8 = 0#16)
    ∧ Config.ex.regmapN ≤ (memRead16 (rd 0xFF 0xFF) 8).toNat
    ∧ State.reset.rm.read 0 = (if State.reset.dbg then 1#16 else 0#16) := by decide

theorem witness_SocValueRoundsHalvesUp : (0 : Rat) ≤ 0 ∧ (0 : Rat) ≤ 100 ∧ (100 : Rat) ≤ 100 := by decide +kernel

theorem witness_ReadsRepeatBetweenWrites :
    ∃ t, run 3 (loaded (.frame (rd 0 1) :: ([rd 0 0].map .frame ++ [.frame (rd 0 1)]))) = .next t
      ∧ decode Config.ex (rd 0 1) = .readSoc ⟨1, 0, 1⟩ 1 [] ∧ decode Config.ex (rd 0 0) = .readIllegal ⟨1, 0, 1⟩ 0 1 [] :=
  ⟨_, rfl, by decide⟩

theorem witness_SocReadsRepeatBetweenTicks :
    ∃ t, run 3 (loaded (.frame (rd 0 1) :: ([wr 0 2 0xFF 0x1A].map .frame ++ [.frame (rd 0 1)]))) = .next t
      ∧ decode Config.ex (rd 0 1) = .readSoc ⟨1, 0, 1⟩ 1 [] := ⟨_, rfl, by decide⟩

/-- `WritePtdResult` at the bounds. -/
theorem witness_WritePtdResult_bounds :
    (battery .idle 100 0).soc = 100 ∧ (battery .idle 0 0).soc = 0 ∧ (battery .idle 100 0).cfg.wf = true
    ∧ Memory.wf (battery .idle 100 0).rm = true ∧ (0xFF1A#16)[15] = true ∧ (0x00E6#16)[15] = false ∧ (0x00E6#16) ≠ 0 := by decide +kernel

/-- `SetpointBranches`, `SetpointArithmetic`: the bounds of each branch. -/
theorem witness_setpoints :
    (0x8000#16)[15] = true ∧ (0xFFFF#16)[15] = true ∧ (0x7FFF#16)[15] = false ∧ (0x0001#16)[15] = false ∧ (0x0001#16) ≠ 0
    ∧ Config.ex.wf = true := by decide

theorem witness_RepeatedSetpointWriteChangesNothing :
    ∃ t u, exec (.writePtd ⟨1, 0, 1⟩ 0xFF1A []) State.reset = .next t ∧ exec (.writePtd ⟨2, 0, 1⟩ 0xFF1A [0x55]) t = .next u :=
  ⟨_, _, rfl, rfl⟩

theorem witness_SetpointReadsBackVerbatim :
    ∃ t, run 3 (loaded (.frame (wr 0 2 0xFF 0x1A) :: ([.tick] ++ [.frame (rd 0 2)]))) = .next t
      ∧ decode Config.ex (wr 0 2 0xFF 0x1A) = .writePtd ⟨1, 0, 1⟩ 0xFF1A [] ∧ decode Config.ex (rd 0 2) = .readPtd ⟨1, 0, 1⟩ 1 []
      ∧ decodeInput Config.ex .tick = .tick ∧ Input.tick ≠ Input.reset := by
  refine ⟨stepNext (stepNext (stepNext (loaded (.frame (wr 0 2 0xFF 0x1A) :: ([.tick] ++ [.frame (rd 0 2)]))))), ?_, by decide⟩
  rw [run_succ (by decide), run_succ (by rw [stepNext_cfg]; decide), run_succ (by rw [stepNext_cfg, stepNext_cfg]; decide), run_zero]

/-- `ChargingTickResult`, `DischargingTickResult`, `IdleTicksChangeNothing`, `TickFrame`. -/
theorem witness_tick_results :
    (battery .charging 99 1).mode = .charging ∧ (battery .charging 99 1).soc + (battery .charging 99 1).rate = 100
    ∧ 0 < (battery .charging 99 1).rate
    ∧ (battery .discharging (1 / 2) (1 / 2)).mode = .discharging
    ∧ (battery .discharging (1 / 2) (1 / 2)).soc - (battery .discharging (1 / 2) (1 / 2)).rate = 0
    ∧ (loaded (List.replicate 2 .tick ++ [])).mode = .idle
    ∧ (loaded (List.replicate 2 .tick ++ [])).inputs = List.replicate 2 .tick ++ [] := by decide +kernel

/-- `TicksAccumulate` and `ClampTickNumber`, V-T13 and V-T15: from 50 % at rate 1 and at rate 1/2. -/
theorem witness_tick_counts :
    ((battery .charging 50 1).setInputs (List.replicate 51 .tick ++ [])).cfg.wf = true
    ∧ (50 : Rat) + (50 : Nat) * 1 ≤ 100 ∧ ((51 : Nat) : Int) = ((100 - (50 : Rat)) / 1).floor + 1
    ∧ (0 : Rat) ≤ 50 - (100 : Nat) * (1 / 2) ∧ ((101 : Nat) : Int) = ((50 : Rat) / (1 / 2)).floor + 1 := by decide +kernel

theorem witness_FullChargeTakesChargeTime :
    Config.ex.pKw ≤ 32768 ∧ ((battery .charging 0 1).setInputs (List.replicate 101 .tick ++ [])).inputs = List.replicate 101 .tick ++ []
    ∧ (1 : Rat) = setpointRate Config.ex (BitVec.ofNat 16 (65536 - Config.ex.pKw))
    ∧ (battery .charging 0 1).mode = .charging ∧ (battery .charging 0 1).soc = 0 ∧ (battery .charging 0 1).cfg.wf = true := by decide +kernel

theorem witness_ResetMirrorsAgree : Config.ex.wf = true ∧ ([] : Frame).length + 6 < 65536 := by decide

/-- The invariant holds at a state, so its hypothesis is met; that it does after reset is `ResetMeetsInvariant`. -/
theorem witness_StepKeepsInvariant : Inv (loaded [.tick]) ∧ ∃ t, step (loaded [.tick]) = .next t :=
  ⟨⟨by decide, rfl, fun _ _ _ _ => rfl, rfl, rfl, Nat.zero_le _, by decide +kernel, by decide +kernel, by decide +kernel, .inr rfl⟩, ⟨_, rfl⟩⟩

/-- `SocStaysInRange`, `OtherSlotsHoldResetValue`. -/
theorem witness_runs : ∃ t, run 2 (State.initWith Config.ex [.tick, .frame (rd 0 1)]) = .next t ∧ (3 ≠ 0 ∧ 3 ≠ Config.ex.addrSoc.toNat ∧ 3 ≠ Config.ex.addrPtd.toNat) :=
  ⟨_, rfl, by decide⟩

/-- Two good states that differ in the flag and its mirror alone. -/
theorem witness_DebugFlagAffectsNothingElse :
    Inv (loaded [.tick]) ∧ Inv (((loaded [.tick]).setDbg true).setRm [(0, 1)])
    ∧ (∀ i, i ≠ 0 → Memory.read [(0, 1)] i = (loaded [.tick]).rm.read i) := by
  refine ⟨witness_StepKeepsInvariant.1, ⟨by decide, by decide, ?_, rfl, rfl, by decide, by decide +kernel, by decide +kernel, by decide +kernel, .inr rfl⟩, ?_⟩
  · intro i h _ _
    exact if_neg h
  · intro i h
    exact if_neg h

end Sys2Proof.Tests
end

section
/-! PROOF. The step of 00_scope.md: which configurations it refuses (R7) and what it executes otherwise (R5). -/

namespace Sys2Proof.Machine

/-- The step's configuration check is the only source of its refusal: a well-formed configuration always goes on
(60_exceptions.md R207). -/
theorem step_eq_refused_iff {s : State} : step s = .refused .illFormedConfig ↔ ¬ s.cfg.wf = true := by
  constructor
  · intro hrefused hwf
    rw [step_eq_stepNext hwf] at hrefused
    cases hrefused
  · intro hwf
    exact if_neg hwf

/-- Settles O9: the step refuses by its configuration check, and that check is R7 with R6's range of `REGMAP_N`. -/
theorem illFormedConfigHasNoRun : Obligations.IllFormedConfigHasNoRun := fun _ =>
  step_eq_refused_iff.trans (not_congr Config.wf_iff)

/-- Settles O7: past the configuration check, the step hands the decoded input to `exec`. -/
theorem stepRunsDecodedInput : Obligations.StepRunsDecodedInput := fun _ _ _ hwf hinputs =>
  step_of_input hwf hinputs

end Sys2Proof.Machine
end

section
/-! PROOF. What each instruction writes and what it keeps (10_state.md R26 to R33), stated on `after` so that no later proof
unfolds `exec`. -/

namespace Sys2Proof.Machine

/-! ### The state after each instruction, in the updates of Laws/State.lean -/

section Equations
variable (s : State) (hdr : Header) (a v : Word) (extra : Frame)

@[simp] theorem after_noReply (bytes : Frame) : after (.noReply bytes) s = s.reply .noReply := rfl

@[simp] theorem after_unsupportedFc (len : Word) (fc : Byte) (data : Frame) :
    after (.unsupportedFc hdr len fc data) s = s.raiseExc (headerBytes hdr len fc ++ data) .illegalFunction := rfl

@[simp] theorem after_truncated (len : Word) (fc : FunctionCode) (data : Frame) :
    after (.truncated hdr len fc data) s = s.raiseExc (headerBytes hdr len fc.toByte ++ data) s.cfg.truncExc := rfl

@[simp] theorem after_readSoc : after (.readSoc hdr v extra) s =
    (s.regWrite s.cfg.addrSoc.toNat (socValue s.soc)).succeed
      (requestFrame hdr .readHolding s.cfg.addrSoc v extra) s.cfg.addrSoc.toNat := rfl

@[simp] theorem after_readPtd : after (.readPtd hdr v extra) s =
    (s.regWrite s.cfg.addrPtd.toNat s.sp).succeed
      (requestFrame hdr .readHolding s.cfg.addrPtd v extra) s.cfg.addrPtd.toNat := rfl

@[simp] theorem after_readIllegal : after (.readIllegal hdr a v extra) s =
    s.raiseExc (requestFrame hdr .readHolding a v extra) .illegalDataAddress := rfl

@[simp] theorem after_writePtd : after (.writePtd hdr v extra) s =
    ((s.setPowerSetpoint v).regWrite s.cfg.addrPtd.toNat v).succeed
      (requestFrame hdr .writeSingle s.cfg.addrPtd v extra) s.cfg.addrPtd.toNat := rfl

@[simp] theorem after_writeDbg : after (.writeDbg hdr v extra) s =
    ((s.setDbg (!s.dbg)).regWrite 0 (flagWord (!s.dbg))).succeed
      (requestFrame hdr .writeSingle s.cfg.addrDbg v extra) 0 := rfl

@[simp] theorem after_writeIllegal : after (.writeIllegal hdr a v extra) s =
    s.raiseExc (requestFrame hdr .writeSingle a v extra) .illegalDataAddress := rfl

@[simp] theorem after_reset :
    after .reset s = { State.init s.cfg with inputs := s.inputs, rsp := s.rsp } := rfl

end Equations

/-- Everything a tick can do (43_tick.md R181 to R183): wait, move `soc` within its bound, or clamp it and go Idle. -/
theorem after_tick_cases (s : State) :
    (s.mode = .idle ∧ after .tick s = s)
    ∨ (s.mode = .charging ∧ s.soc + s.rate ≤ 100 ∧ after .tick s = s.setSoc (s.soc + s.rate))
    ∨ (s.mode = .charging ∧ 100 < s.soc + s.rate ∧ after .tick s = (s.setSoc 100).setMode .idle)
    ∨ (s.mode = .discharging ∧ 0 ≤ s.soc - s.rate ∧ after .tick s = s.setSoc (s.soc - s.rate))
    ∨ (s.mode = .discharging ∧ s.soc - s.rate < 0 ∧ after .tick s = (s.setSoc 0).setMode .idle) := by
  cases hmode : s.mode with
  | idle => exact .inl ⟨rfl, after_of_exec (exec_tick_idle hmode)⟩
  | charging =>
    rw [after_of_exec (exec_tick_charging hmode)]
    rcases le_or_gt (s.soc + s.rate) 100 with hbound | hbound
    · exact .inr (.inl ⟨rfl, hbound, if_neg (not_lt.2 hbound)⟩)
    · exact .inr (.inr (.inl ⟨rfl, hbound, if_pos hbound⟩))
  | discharging =>
    rw [after_of_exec (exec_tick_discharging hmode)]
    rcases le_or_gt 0 (s.soc - s.rate) with hbound | hbound
    · exact .inr (.inr (.inr (.inl ⟨rfl, hbound, if_neg (not_lt.2 hbound)⟩)))
    · exact .inr (.inr (.inr (.inr ⟨rfl, hbound, if_pos hbound⟩)))

/-- A tick writes `soc` and `mode` alone (43_tick.md R180). -/
theorem exists_after_tick (s : State) : ∃ x m, after .tick s = (s.setSoc x).setMode m := by
  rcases after_tick_cases s with ⟨-, h⟩ | ⟨-, -, h⟩ | ⟨-, -, h⟩ | ⟨-, -, h⟩ | ⟨-, -, h⟩
  · exact ⟨s.soc, s.mode, h⟩
  · exact ⟨s.soc + s.rate, s.mode, h⟩
  · exact ⟨100, .idle, h⟩
  · exact ⟨s.soc - s.rate, s.mode, h⟩
  · exact ⟨0, .idle, h⟩

section TickFrame
variable (s : State)

@[simp] theorem after_tick_rm : (after .tick s).rm = s.rm := by obtain ⟨x, m, h⟩ := exists_after_tick s; simp [h]
@[simp] theorem after_tick_rate : (after .tick s).rate = s.rate := by obtain ⟨x, m, h⟩ := exists_after_tick s; simp [h]
@[simp] theorem after_tick_sp : (after .tick s).sp = s.sp := by obtain ⟨x, m, h⟩ := exists_after_tick s; simp [h]
@[simp] theorem after_tick_dbg : (after .tick s).dbg = s.dbg := by obtain ⟨x, m, h⟩ := exists_after_tick s; simp [h]
@[simp] theorem after_tick_rsp : (after .tick s).rsp = s.rsp := by obtain ⟨x, m, h⟩ := exists_after_tick s; simp [h]

end TickFrame

/-! ### What all instructions but the named writers keep -/

section Writers
variable {i : Instr} {s : State}

/-- R26, R27: only the setpoint handler, and RESET, write `rate` and `SP`. -/
theorem after_rate_sp (hreset : i ≠ .reset) (hptd : ∀ hdr v extra, i ≠ .writePtd hdr v extra) :
    (after i s).rate = s.rate ∧ (after i s).sp = s.sp := by
  cases i with
  | writePtd hdr v extra => exact absurd rfl (hptd hdr v extra)
  | reset => exact absurd rfl hreset
  | _ => simp

/-- R28: only WRITE_DBG, and RESET, write `dbg`. -/
theorem after_dbg (hreset : i ≠ .reset) (hdbg : ∀ hdr v extra, i ≠ .writeDbg hdr v extra) : (after i s).dbg = s.dbg := by
  cases i with
  | writeDbg hdr v extra => exact absurd rfl (hdbg hdr v extra)
  | reset => exact absurd rfl hreset
  | _ => simp

/-- A tick that changes `mode` has passed a bound, at which it leaves `soc` (43_tick.md R181, R182). -/
theorem after_tick_mode :
    (after .tick s).mode = s.mode ∨ ((after .tick s).mode = .idle
      ∧ (((after .tick s).soc = 100 ∧ s.soc + s.rate > 100) ∨ ((after .tick s).soc = 0 ∧ s.soc - s.rate < 0))) := by
  rcases after_tick_cases s with ⟨-, h⟩ | ⟨-, -, h⟩ | ⟨-, hbound, h⟩ | ⟨-, -, h⟩ | ⟨-, hbound, h⟩ <;> rw [h]
  · exact .inl rfl
  · exact .inl rfl
  · exact .inr ⟨rfl, .inl ⟨rfl, hbound⟩⟩
  · exact .inl rfl
  · exact .inr ⟨rfl, .inr ⟨rfl, hbound⟩⟩

/-- R25, R32: of all instructions but WRITE_PTD and RESET, only a tick writes `mode`. -/
theorem after_mode (hreset : i ≠ .reset) (hptd : ∀ hdr v extra, i ≠ .writePtd hdr v extra) (htick : i ≠ .tick) :
    (after i s).mode = s.mode := by
  cases i with
  | writePtd hdr v extra => exact absurd rfl (hptd hdr v extra)
  | reset => exact absurd rfl hreset
  | tick => exact absurd rfl htick
  | _ => simp

/-- Every instruction keeps the Register Map canonical. -/
theorem after_rm_wf (h : Memory.wf s.rm = true) (i : Instr) : Memory.wf (after i s).rm = true := by
  cases i with
  | reset => rfl
  | _ => simp [State.regWrite_wf, h]

/-- 40_frame_codec.md R109: replies that have left stay, and later ones leave after them. -/
theorem rsp_prefix_after (i : Instr) (s : State) : s.rsp <+: (after i s).rsp := by
  cases i <;> simp

end Writers

/-- Settles O11: every next state is `after i s`, which keeps both fields (`after_cfg`, `after_inputs`). -/
theorem configurationIsConstant : Obligations.ConfigurationIsConstant := by
  intro i s t h
  rw [← after_of_exec h]
  exact ⟨after_cfg i s, after_inputs i s⟩

/-- Settles O46: each element's writers are read off the instructions, and the tick's clamp off `after_tick_mode`. -/
theorem statusElementWriters : Obligations.StatusElementWriters := by
  intro i s t h hreset
  rw [← after_of_exec h]
  refine ⟨fun hptd => ?_, after_dbg hreset⟩
  obtain ⟨hrate, hsp⟩ := after_rate_sp (s := s) hreset hptd
  refine ⟨hrate, hsp, ?_⟩
  by_cases htick : i = .tick
  · subst htick
    exact after_tick_mode.imp_right fun hclamp => ⟨rfl, hclamp⟩
  · exact .inl (after_mode hreset hptd htick)

/-- Settles O14: the first slot in which two canonical lists differ reads differently (`Memory.eq_of_read`). -/
theorem equalRegisterMapsAreEqualData : Obligations.EqualRegisterMapsAreEqualData := fun _ _ => Memory.eq_of_read

end Sys2Proof.Machine
end

section
/-! PROOF. The invariant of Safety.lean (10_state.md R21, R22, R25, R26, R29) after every step and along every run from reset.
It is split into what it asks of each slot and what it asks of the battery, because a served request breaks it for one slot
until the dispatcher has written that slot. -/

namespace Sys2Proof

/-! ### The configuration's slots -/

/-- The dispatcher's indices are in the Register Map (20_memory.md R50). -/
theorem Config.slots_lt {c : Config} (h : c.wf = true) :
    0 < c.regmapN ∧ c.addrSoc.toNat < c.regmapN ∧ c.addrPtd.toNat < c.regmapN := by
  obtain ⟨-, -, -, -, hsoc, -, hptd, -, -, -, -, -, hpos, -⟩ := Config.wf_iff.1 h
  exact ⟨hpos, hsoc, hptd⟩

/-- The three slots that the block writes are distinct (00_scope.md R7). -/
theorem Config.slots_distinct {c : Config} (h : c.wf = true) :
    c.addrSoc.toNat ≠ 0 ∧ c.addrPtd.toNat ≠ 0 ∧ c.addrSoc.toNat ≠ c.addrPtd.toNat := by
  obtain ⟨hne, -, -, hsoc, -, hptd, -⟩ := Config.wf_iff.1 h
  exact ⟨by omega, by omega, fun heq => hne (BitVec.eq_of_toNat_eq heq)⟩

/-! ### The numbers of the battery -/

/-- A setpoint never makes `rate` negative (42_write_requests.md R156). -/
theorem setpointRate_nonneg (c : Config) (raw : Word) : 0 ≤ setpointRate c raw := by
  unfold setpointRate chargeResolution dischargeResolution
  split_ifs <;> positivity

/-- For a state of charge in 0 to 100 the rounded tenfold is in 0 to 1000. -/
theorem floor_soc_mem {soc : Rat} (hlow : 0 ≤ soc) (hhigh : soc ≤ 100) :
    0 ≤ (10 * soc + 1 / 2).floor ∧ (10 * soc + 1 / 2).floor ≤ 1000 := by
  change 0 ≤ ⌊10 * soc + 1 / 2⌋ ∧ ⌊10 * soc + 1 / 2⌋ ≤ 1000
  rw [Int.floor_nonneg, Int.floor_le_iff]
  constructor
  · linarith
  · push_cast
    linarith

/-- R135: in that range `SocValue` does not wrap. -/
theorem socValue_toNat {soc : Rat} (hlow : 0 ≤ soc) (hhigh : soc ≤ 100) :
    ((socValue soc).toNat : Int) = (10 * soc + 1 / 2).floor := by
  obtain ⟨hnonneg, hle⟩ := floor_soc_mem hlow hhigh
  rw [socValue, BitVec.toNat_ofInt]
  omega

/-- R29: the register value of a state of charge in 0 to 100 is at most 1000. -/
theorem socValue_le {soc : Rat} (hlow : 0 ≤ soc) (hhigh : soc ≤ 100) : (socValue soc).toNat ≤ 1000 := by
  have hvalue := socValue_toNat hlow hhigh
  have hle := (floor_soc_mem hlow hhigh).2
  omega

end Sys2Proof

namespace Sys2Proof.Machine

/-! ### The invariant, slot by slot -/

/-- What the invariant asks of the value `w` of slot `i`, where the flag is `dbg` and the setpoint `sp`. -/
structure SlotGood (c : Config) (dbg : Bool) (sp : Word) (i : Nat) (w : Word) : Prop where
  /-- R22 -/
  other : i ≠ 0 → i ≠ c.addrSoc.toNat → i ≠ c.addrPtd.toNat → w = 0
  /-- R21 -/
  debug : i = 0 → w = flagWord dbg
  /-- R21, R233 -/
  setpoint : i = c.addrPtd.toNat → w = sp
  /-- R29 -/
  soc : i = c.addrSoc.toNat → w.toNat ≤ 1000

/-- What the invariant asks of the battery unit's fields (R25, R26, R29). -/
structure BatteryGood (c : Config) (soc rate : Rat) (mode : Mode) (sp : Word) : Prop where
  low : 0 ≤ soc
  high : soc ≤ 100
  rate : rate = setpointRate c sp
  mode : mode = setpointMode sp ∨ mode = .idle

theorem inv_iff {s : State} : Inv s ↔ s.cfg.wf = true ∧ Memory.wf s.rm = true
    ∧ (∀ i, SlotGood s.cfg s.dbg s.sp i (s.rm.read i)) ∧ BatteryGood s.cfg s.soc s.rate s.mode s.sp := by
  constructor
  · intro h
    refine ⟨h.config, h.memory, fun i => ⟨h.otherSlots i, ?_, ?_, ?_⟩, h.socLow, h.socHigh, h.rateOfSetpoint, h.modeOfSetpoint⟩
    · rintro rfl
      exact h.debugMirror
    · rintro rfl
      exact h.setpointMirror
    · rintro rfl
      exact h.socSlot
  · rintro ⟨hconfig, hmemory, hslots, hbattery⟩
    exact ⟨hconfig, hmemory, fun i => (hslots i).other, (hslots 0).debug rfl, (hslots _).setpoint rfl, (hslots _).soc rfl,
      hbattery.low, hbattery.high, hbattery.rate, hbattery.mode⟩

section Slots
variable {c : Config} (hc : c.wf = true) (dbg : Bool) (sp : Word)
include hc

theorem slotGood_zero : SlotGood c dbg sp 0 (flagWord dbg) := by
  obtain ⟨hsoc, hptd, -⟩ := Config.slots_distinct hc
  exact ⟨fun h => absurd rfl h, fun _ => rfl, fun h => absurd h.symm hptd, fun h => absurd h.symm hsoc⟩

theorem slotGood_addrPtd : SlotGood c dbg sp c.addrPtd.toNat sp := by
  obtain ⟨-, hptd, hne⟩ := Config.slots_distinct hc
  exact ⟨fun _ _ h => absurd rfl h, fun h => absurd h hptd, fun _ => rfl, fun h => absurd h.symm hne⟩

theorem slotGood_addrSoc {w : Word} (hw : w.toNat ≤ 1000) : SlotGood c dbg sp c.addrSoc.toNat w := by
  obtain ⟨hsoc, -, hne⟩ := Config.slots_distinct hc
  exact ⟨fun _ h => absurd rfl h, fun h => absurd h hsoc, fun h => absurd h hne, fun _ => hw⟩

end Slots

/-- A register write that puts into its slot what the invariant asks of it establishes the invariant, whatever that slot held
before. -/
theorem inv_regWrite {s : State} {i : Nat} {w : Word} (hc : s.cfg.wf = true) (hm : Memory.wf s.rm = true)
    (hi : i < s.cfg.regmapN) (hw : SlotGood s.cfg s.dbg s.sp i w)
    (hother : ∀ k, k ≠ i → SlotGood s.cfg s.dbg s.sp k (s.rm.read k))
    (hbattery : BatteryGood s.cfg s.soc s.rate s.mode s.sp) : Inv (s.regWrite i w) := by
  refine inv_iff.2 ⟨by simpa using hc, State.regWrite_wf hm i w, fun k => ?_, by simpa using hbattery⟩
  rw [State.read_regWrite hm hi, State.regWrite_cfg, State.regWrite_dbg, State.regWrite_sp]
  by_cases hk : k = i
  · subst hk
    simpa using hw
  · simpa [hk] using hother k hk

/-! ### The invariant after each instruction -/

/-- The invariant does not speak of the host's inputs or of the replies that have left. -/
theorem Inv.setPorts {s : State} (h : Inv s) (l : List Input) (rs : List Reply) : Inv { s with inputs := l, rsp := rs } :=
  { h with }

theorem Inv.reply {s : State} (h : Inv s) (r : Reply) : Inv (s.reply r) := h.setPorts _ _

theorem Inv.setSoc {s : State} (h : Inv s) {x : Rat} (hlow : 0 ≤ x) (hhigh : x ≤ 100) : Inv (s.setSoc x) :=
  { h with socLow := hlow, socHigh := hhigh }

theorem Inv.setIdle {s : State} (h : Inv s) : Inv (s.setMode .idle) :=
  { h with modeOfSetpoint := .inr rfl }

/-- 70_reset_and_hazards.md R230. -/
theorem inv_init {c : Config} (hc : c.wf = true) : Inv (State.init c) where
  config := hc
  memory := rfl
  otherSlots _ _ _ _ := rfl
  debugMirror := rfl
  setpointMirror := rfl
  socSlot := Nat.zero_le _
  socLow := by norm_num [State.init]
  socHigh := by norm_num [State.init]
  rateOfSetpoint := by simp [State.init, setpointRate]
  modeOfSetpoint := .inr rfl

section Instructions
variable {s : State} (h : Inv s)
include h

/-- READ_SOC: the slot gets the value of a `soc` in range. -/
theorem Inv.regWrite_socValue : Inv (s.regWrite s.cfg.addrSoc.toNat (socValue s.soc)) := by
  obtain ⟨hc, hm, hslots, hbattery⟩ := inv_iff.1 h
  exact inv_regWrite hc hm (Config.slots_lt hc).2.1 (slotGood_addrSoc hc _ _ (socValue_le hbattery.low hbattery.high))
    (fun k _ => hslots k) hbattery

/-- READ_PTD: the slot gets the setpoint it already mirrors. -/
theorem Inv.regWrite_sp : Inv (s.regWrite s.cfg.addrPtd.toNat s.sp) := by
  obtain ⟨hc, hm, hslots, hbattery⟩ := inv_iff.1 h
  exact inv_regWrite hc hm (Config.slots_lt hc).2.2 (slotGood_addrPtd hc _ _) (fun k _ => hslots k) hbattery

/-- WRITE_PTD: the handler sets `SP`, `mode` and `rate` together, and the slot gets the new setpoint. -/
theorem Inv.setPowerSetpoint_regWrite (v : Word) : Inv ((s.setPowerSetpoint v).regWrite s.cfg.addrPtd.toNat v) := by
  obtain ⟨hc, hm, hslots, hbattery⟩ := inv_iff.1 h
  refine inv_regWrite (s := s.setPowerSetpoint v) hc hm (Config.slots_lt hc).2.2 (slotGood_addrPtd hc _ _) ?_
    ⟨hbattery.low, hbattery.high, rfl, .inl rfl⟩
  intro k hk
  exact { hslots k with setpoint := fun heq => absurd heq hk }

/-- WRITE_DBG: slot 0 gets the new flag. -/
theorem Inv.setDbg_regWrite (b : Bool) : Inv ((s.setDbg b).regWrite 0 (flagWord b)) := by
  obtain ⟨hc, hm, hslots, hbattery⟩ := inv_iff.1 h
  refine inv_regWrite (s := s.setDbg b) hc hm (Config.slots_lt hc).1 (slotGood_zero hc _ _) ?_ hbattery
  intro k hk
  exact { hslots k with debug := fun heq => absurd heq hk }

/-- TICK: `soc` stays in range because `rate` is not negative and a sum or difference past the bound is clamped. -/
theorem Inv.after_tick : Inv (after .tick s) := by
  have hrate : 0 ≤ s.rate := h.rateOfSetpoint ▸ setpointRate_nonneg s.cfg s.sp
  have hlow := h.socLow
  have hhigh := h.socHigh
  rcases after_tick_cases s with ⟨-, ht⟩ | ⟨-, hbound, ht⟩ | ⟨-, -, ht⟩ | ⟨-, hbound, ht⟩ | ⟨-, -, ht⟩ <;> rw [ht]
  · exact h
  · exact h.setSoc (by linarith) hbound
  · exact (h.setSoc (by norm_num) le_rfl).setIdle
  · exact h.setSoc hbound (by linarith)
  · exact (h.setSoc le_rfl (by norm_num)).setIdle

/-- Every instruction keeps the invariant. -/
theorem Inv.after (i : Instr) : Inv (after i s) := by
  cases i with
  | readSoc hdr v extra => exact h.regWrite_socValue.reply _
  | readPtd hdr v extra => exact h.regWrite_sp.reply _
  | writePtd hdr v extra => exact (h.setPowerSetpoint_regWrite v).reply _
  | writeDbg hdr v extra => exact (h.setDbg_regWrite _).reply _
  | tick => exact h.after_tick
  | reset => exact (inv_init h.config).setPorts _ _
  | _ => exact h.reply _

end Instructions

/-- Settles O49: a step waits, or executes an instruction, each of which keeps the invariant (`Inv.after`). -/
theorem stepKeepsInvariant : Obligations.StepKeepsInvariant := by
  intro s t h hstep
  obtain ⟨-, ⟨-, rfl⟩ | ⟨inp, rest, -, rfl⟩⟩ := step_cases hstep
  · exact h
  · exact (h.setPorts rest s.rsp).after _

/-! ### The invariant along every run from reset -/

theorem inv_initWith {c : Config} (hc : c.wf = true) (l : List Input) : Inv (State.initWith c l) :=
  (inv_init hc).setPorts _ _

/-- The invariant holds of every reachable state. -/
theorem inv_of_run {c : Config} (hc : c.wf = true) {l : List Input} {k : Nat} {t : State}
    (hrun : run k (State.initWith c l) = .next t) : Inv t :=
  run_keeps (fun {s t} => stepKeepsInvariant s t) (inv_initWith hc l) hrun

theorem step_cfg {s t : State} (hstep : step s = .next t) : t.cfg = s.cfg := by
  obtain ⟨-, ⟨-, rfl⟩ | ⟨inp, rest, -, rfl⟩⟩ := step_cases hstep <;> simp

/-- R33: the configuration stays for the whole run. -/
theorem run_cfg {s t : State} {k : Nat} (hrun : run k s = .next t) : t.cfg = s.cfg :=
  run_keeps (P := fun u => u.cfg = s.cfg) (fun hu hstep => (step_cfg hstep).trans hu) rfl hrun

/-- Settles O51: the range is the invariant's, and in it `SocValue` does not wrap. -/
theorem socStaysInRange : Obligations.SocStaysInRange := by
  intro c l k t hc hrun
  have hinv := inv_of_run hc hrun
  refine ⟨hinv.socLow, hinv.socHigh, ?_, socValue_le hinv.socLow hinv.socHigh⟩
  rw [mul_comm, socValue_toNat hinv.socLow hinv.socHigh]

/-- Settles O52: the invariant's clause for the slots that no meaning writes. -/
theorem otherSlotsHoldResetValue : Obligations.OtherSlotsHoldResetValue := by
  intro c l k t hc hrun i hzero hsoc hptd
  have hcfg : t.cfg = c := run_cfg hrun
  have hread : t.rm.read i = 0 := (inv_of_run hc hrun).otherSlots i hzero (hcfg ▸ hsoc) (hcfg ▸ hptd)
  exact ⟨by simp [State.regRead, hread], hread⟩

end Sys2Proof.Machine
end

section
/-! PROOF. A setpoint is read back verbatim (10_state.md R27, 41_read_requests.md R132), over any inputs that do not set it. -/

namespace Sys2Proof

/-- 30_encoding.md R78: whatever a frame decodes to is an instruction that some frame spells. -/
theorem decode_wellFormed (c : Config) (F : Frame) : (decode c F).wellFormed c = true := by
  rcases decode_cases F with h | ⟨hn, hL, hfc⟩ | ⟨fc, hn, hL, hfc, h⟩ | ⟨hL, hn, hfc⟩ | ⟨hL, hn, hfc⟩
  · rw [decode_of_short h]
    exact decide_eq_true h
  · rw [decode_of_unsupported hn hL hfc]
    exact decide_eq_true ⟨hL, hfc⟩
  · rw [decode_of_truncated hn hL hfc h]
    simp only [Instr.wellFormed, List.length_drop, decide_eq_true_eq]
    change 2 ≤ frameLen F ∧ (frameLen F < 6 ∨ 8 + (F.length - 8) < 6 + frameLen F)
    omega
  · rw [decode_of_read hL hn hfc, decodeRead]
    split_ifs <;> simp [Instr.wellFormed, extraFits_frameExtra, *]
  · rw [decode_of_write hL hn hfc, decodeWrite]
    split_ifs <;> simp [Instr.wellFormed, extraFits_frameExtra, *]

/-- R77: RESET is an event and has no frame. -/
theorem decode_ne_reset (c : Config) (F : Frame) : decode c F ≠ .reset := by
  rcases decode_cases F with h | ⟨hn, hL, hfc⟩ | ⟨fc, hn, hL, hfc, h⟩ | ⟨hL, hn, hfc⟩ | ⟨hL, hn, hfc⟩
  · simp [decode_of_short h]
  · simp [decode_of_unsupported hn hL hfc]
  · simp [decode_of_truncated hn hL hfc h]
  · rw [decode_of_read hL hn hfc, decodeRead]
    split_ifs <;> simp
  · rw [decode_of_write hL hn hfc, decodeWrite]
    split_ifs <;> simp

theorem decodeInput_ne_reset {c : Config} {inp : Input} (h : inp ≠ .reset) : decodeInput c inp ≠ .reset := by
  cases inp with
  | frame F => exact decode_ne_reset c F
  | tick => simp [decodeInput]
  | reset => exact absurd rfl h

end Sys2Proof

namespace Sys2Proof.Machine

/-- A run over the inputs `l` takes them all and keeps every property that each of them keeps. -/
theorem run_inputs {P : State → Prop} {l rest : List Input} {s : State} (hc : s.cfg.wf = true)
    (hinputs : s.inputs = l ++ rest) (hs : P s)
    (keep : ∀ inp ∈ l, ∀ u tail, P u → P (after (decodeInput s.cfg inp) (u.setInputs tail))) :
    ∃ t, run l.length s = .next t ∧ t.cfg = s.cfg ∧ t.inputs = rest ∧ P t := by
  induction l generalizing s with
  | nil => exact ⟨s, rfl, rfl, hinputs, hs⟩
  | cons inp l ih =>
    have hnext := stepNext_of_input hinputs
    obtain ⟨t, hrun, hcfg, hrest, ht⟩ := ih (s := stepNext s) (by simpa using hc) (by simp [hnext])
      (hnext ▸ keep inp List.mem_cons_self s (l ++ rest) hs)
      (by simpa using fun inp' hmem => keep inp' (List.mem_cons_of_mem inp hmem))
    exact ⟨t, (run_succ hc l.length).trans hrun, by simpa using hcfg, hrest, ht⟩

/-- The setpoint is `v`, and the replies `past` have left. -/
structure HoldsSetpoint (v : Word) (past : List Reply) (s : State) : Prop where
  memory : Memory.wf s.rm = true
  setpoint : s.sp = v
  replies : past <+: s.rsp

/-- A step that takes a WRITE_PTD of `v` makes `v` the setpoint, whatever it was. -/
theorem holdsSetpoint_stepNext_writePtd {s : State} (hm : Memory.wf s.rm = true) {W : Frame} {rest : List Input}
    (hinputs : s.inputs = .frame W :: rest) {hdr : Header} {v : Word} {extra : Frame}
    (hW : decode s.cfg W = .writePtd hdr v extra) :
    HoldsSetpoint v s.rsp (stepNext s) ∧ (stepNext s).inputs = rest := by
  have hdecode : decodeInput s.cfg (.frame W) = .writePtd hdr v extra := hW
  rw [stepNext_of_input hinputs, hdecode]
  exact ⟨⟨after_rm_wf (s := s.setInputs rest) hm _, by simp, rsp_prefix_after _ (s.setInputs rest)⟩, after_inputs _ _⟩

/-- No instruction but WRITE_PTD and RESET moves the setpoint, and none takes a reply back. -/
theorem HoldsSetpoint.after {v : Word} {past : List Reply} {s : State} (h : HoldsSetpoint v past s) {i : Instr}
    (hreset : i ≠ .reset) (hptd : ∀ hdr v extra, i ≠ .writePtd hdr v extra) : HoldsSetpoint v past (after i s) :=
  ⟨after_rm_wf h.memory i, (after_rate_sp hreset hptd).2.trans h.setpoint, h.replies.trans (rsp_prefix_after i s)⟩

theorem HoldsSetpoint.setInputs {v : Word} {past : List Reply} {s : State} (h : HoldsSetpoint v past s) (l : List Input) :
    HoldsSetpoint v past (s.setInputs l) :=
  { h with }

/-- A READ_PTD replies the setpoint, and its slot holds it. -/
theorem HoldsSetpoint.step_readPtd {v : Word} {past : List Reply} {s t : State} (h : HoldsSetpoint v past s)
    (hc : s.cfg.wf = true) {R : Frame} {rest : List Input} (hinputs : s.inputs = .frame R :: rest) {hdr : Header} {w : Word}
    {extra : Frame} (hR : decode s.cfg R = .readPtd hdr w extra) (hstep : step s = .next t) :
    t.sp = v ∧ t.rm.read s.cfg.addrPtd.toNat = v
    ∧ ∃ rs, t.rsp = past ++ rs ++ [.frame (requestFrame hdr .readHolding s.cfg.addrPtd v extra)] := by
  have hx : extraFits extra = true := by simpa [hR, Instr.wellFormed] using decode_wellFormed s.cfg R
  have hdecode : decodeInput s.cfg (.frame R) = .readPtd hdr w extra := hR
  rw [step_of_input hc hinputs, hdecode,
    exec_readPtd (s := s.setInputs rest) h.memory hdr w hx (Config.slots_lt hc).2.2] at hstep
  obtain rfl := Host.Outcome.next.inj hstep
  obtain ⟨rs, hrs⟩ := h.replies
  refine ⟨h.setpoint, ?_, rs, ?_⟩
  · simp [Memory.read_write h.memory, h.setpoint]
  · simp [← hrs, h.setpoint]

/-- A success reply's bytes, field by field (30_encoding.md R70, R81). -/
theorem requestFrame_readHolding (hdr : Header) (a v : Word) (extra : Frame) :
    requestFrame hdr .readHolding a v extra = wordBytes hdr.tid ++ wordBytes hdr.pid
      ++ wordBytes (BitVec.ofNat 16 (6 + extra.length)) ++ [hdr.uid, 0x03] ++ wordBytes a ++ wordBytes v ++ extra := rfl

/-- Settles O37: the WRITE_PTD sets `SP`, the inputs between keep it (`HoldsSetpoint`), and the READ_PTD replies it. -/
theorem setpointReadsBackVerbatim : Obligations.SetpointReadsBackVerbatim := by
  intro s t W R between hdr hdr' v v' extra extra' hc hm hinputs hW hR hbetween hrun
  have hc1 : (stepNext s).cfg.wf = true := by simpa using hc
  obtain ⟨hwritten, hbetweenInputs⟩ := holdsSetpoint_stepNext_writePtd hm hinputs hW
  have hkept : ∀ inp ∈ between, ∀ u tail, HoldsSetpoint v s.rsp u →
      HoldsSetpoint v s.rsp (after (decodeInput (stepNext s).cfg inp) (u.setInputs tail)) := by
    intro inp hmem u tail hu
    obtain ⟨hreset, hptd⟩ := hbetween inp hmem
    rw [stepNext_cfg]
    exact (hu.setInputs tail).after (decodeInput_ne_reset hreset) hptd
  obtain ⟨u, hrunu, hcfg, hlast, hu⟩ := run_inputs hc1 hbetweenInputs hwritten hkept
  rw [stepNext_cfg] at hcfg
  have hcu : u.cfg.wf = true := hcfg ▸ hc
  have hread : step u = .next t := by
    rw [step_eq_stepNext hcu, ← run_zero, ← run_succ hcu, ← run_add 1 hc1 hrunu, ← run_succ hc]
    exact hrun
  obtain ⟨hsp, hslot, hrsp⟩ := hu.step_readPtd hcu hlast (hcfg ▸ hR) hread
  rw [hcfg] at hslot hrsp
  exact ⟨hsp, hslot, by simpa only [requestFrame_readHolding] using hrsp⟩

end Sys2Proof.Machine
end

section
/-! PROOF. The Register Map's access (20_memory.md R50, R51), and what a repeated write into the same slot leaves (R57). -/

namespace Sys2Proof.Machine

/-- R50: an index in range is read. -/
theorem State.regRead_of_lt (s : State) {i : Nat} (hi : i < s.cfg.regmapN) : s.regRead i = s.rm.read i := if_pos hi

/-- R50: an index out of range reads `0x0000`. -/
theorem State.regRead_of_ge (s : State) {i : Nat} (hi : s.cfg.regmapN ≤ i) : s.regRead i = 0 := if_neg (Nat.not_lt.2 hi)

/-- R51: an index in range is written, and no field but the Register Map. -/
theorem State.regWrite_of_lt (s : State) {i : Nat} (hi : i < s.cfg.regmapN) (v : Word) :
    s.regWrite i v = s.setRm (s.rm.write i v) := if_pos hi

/-- Settles O13: the two range checks on both sides of `REGMAP_N`, and `Config.slots_lt` for the dispatcher's indices. -/
theorem registerAccessIsRangeChecked : Obligations.RegisterAccessIsRangeChecked := by
  refine ⟨?inRange, ?outOfRange, fun _ => Config.slots_lt⟩
  case inRange =>
    intro s i v hm hi
    refine ⟨s.regRead_of_lt hi, State.regRead_regWrite_self hm hi v, fun j hj => ?_, ⟨_, s.regWrite_of_lt hi v⟩⟩
    rw [State.regRead_regWrite hm, if_neg fun h => hj h.1]
  case outOfRange =>
    intro s i v hi
    exact ⟨s.regRead_of_ge hi, s.regWrite_of_ge hi v⟩

/-- A second write into the same slot replaces the first. -/
theorem Memory.write_write {m : Memory} (h : Memory.wf m = true) (i : Nat) (v w : Word) :
    (m.write i v).write i w = m.write i w := by
  have hv := Memory.write_wf h i v
  refine Memory.eq_of_read (Memory.write_wf hv i w) (Memory.write_wf h i w) fun k => ?_
  rw [Memory.read_write hv, Memory.read_write h, Memory.read_write h]
  split_ifs <;> rfl

/-- Everything a WRITE_PTD writes, and that it then gives one reply (42_write_requests.md R151). -/
theorem exists_reply_of_exec_writePtd {hdr : Header} {v : Word} {extra : Frame} {s t : State}
    (h : exec (.writePtd hdr v extra) s = .next t) (hslot : s.cfg.addrPtd.toNat < s.cfg.regmapN) :
    ∃ r, t = ((s.setPowerSetpoint v).setRm (s.rm.write s.cfg.addrPtd.toNat v)).reply r := by
  rw [← after_of_exec h, after_writePtd, (s.setPowerSetpoint v).regWrite_of_lt hslot]
  exact ⟨_, rfl⟩

/-- Settles O36: the setpoint handler sets its three fields from `v` and the configuration alone, and the slot's second write
replaces the first. -/
theorem repeatedSetpointWriteChangesNothing : Obligations.RepeatedSetpointWriteChangesNothing := by
  intro hdr hdr' v extra extra' s t u hc hm _ _ ht hu
  obtain ⟨-, -, hslot⟩ := Config.slots_lt hc
  obtain ⟨r, rfl⟩ := exists_reply_of_exec_writePtd ht hslot
  obtain ⟨r', rfl⟩ := exists_reply_of_exec_writePtd hu hslot
  have hrm := Memory.write_write hm s.cfg.addrPtd.toNat v v
  exact State.ext_fields rfl hrm rfl rfl rfl rfl rfl rfl rfl

end Sys2Proof.Machine
end

section
/-! PROOF. Reads repeat while nothing writes (20_memory.md R57): every frame gets one reply, a frame that is no write keeps the
battery unit, and the reply to a read depends on the battery unit alone. -/

namespace Sys2Proof

/-- 30_encoding.md R77: TICK is an event and has no frame. -/
theorem decode_ne_tick (c : Config) (F : Frame) : decode c F ≠ .tick := by
  rcases decode_cases F with h | ⟨hn, hL, hfc⟩ | ⟨fc, hn, hL, hfc, h⟩ | ⟨hL, hn, hfc⟩ | ⟨hL, hn, hfc⟩
  · simp [decode_of_short h]
  · simp [decode_of_unsupported hn hL hfc]
  · simp [decode_of_truncated hn hL hfc h]
  · rw [decode_of_read hL hn hfc, decodeRead]
    split_ifs <;> simp
  · rw [decode_of_write hL hn hfc, decodeWrite]
    split_ifs <;> simp

end Sys2Proof

namespace Sys2Proof.Machine

/-! ### One reply per frame -/

section Request
variable {i : Instr} (htick : i ≠ .tick) (hreset : i ≠ .reset) (s : State)
include htick hreset

/-- 40_frame_codec.md R109: every request gets exactly one reply. -/
theorem exists_rsp_after : ∃ r, (after i s).rsp = s.rsp ++ [r] := by
  cases i with
  | tick => exact absurd rfl htick
  | reset => exact absurd rfl hreset
  | _ => simp

/-- 43_tick.md R184: no request writes `soc`. -/
theorem after_soc : (after i s).soc = s.soc := by
  cases i with
  | tick => exact absurd rfl htick
  | reset => exact absurd rfl hreset
  | _ => simp

end Request

/-- R109 along a run: as many replies leave as frames are handed in. -/
theorem run_frames_rsp {Fs : List Frame} {rest : List Input} {s t : State} (hc : s.cfg.wf = true)
    (hinputs : s.inputs = Fs.map .frame ++ rest) (hrun : run Fs.length s = .next t) :
    ∃ rs : List Reply, rs.length = Fs.length ∧ t.rsp = s.rsp ++ rs := by
  induction Fs generalizing s with
  | nil =>
    obtain rfl : s = t := Host.Outcome.next.inj hrun
    exact ⟨[], rfl, (List.append_nil _).symm⟩
  | cons F Fs ih =>
    have hnext := stepNext_of_input hinputs
    obtain ⟨r, hr⟩ := exists_rsp_after (decode_ne_tick s.cfg F) (decode_ne_reset s.cfg F)
      (s.setInputs (Fs.map .frame ++ rest))
    have hfirst : (stepNext s).rsp = s.rsp ++ [r] := by
      rw [hnext]
      exact hr
    rw [List.length_cons, run_succ hc] at hrun
    obtain ⟨rs, hlen, hrsp⟩ := ih (by simpa using hc) (by simp [hnext]) hrun
    exact ⟨r :: rs, by simp [hlen], by simp [hrsp, hfirst]⟩

/-! ### Frames that keep the battery unit -/

/-- `u` has what a read of `s` can see, and `mode`, `rate` and `dbg` beside it. -/
structure KeepsBattery (s u : State) : Prop where
  config : u.cfg = s.cfg
  memory : Memory.wf u.rm = true
  soc : u.soc = s.soc
  mode : u.mode = s.mode
  rate : u.rate = s.rate
  sp : u.sp = s.sp
  dbg : u.dbg = s.dbg

theorem KeepsBattery.setInputs {s u : State} (h : KeepsBattery s u) (l : List Input) : KeepsBattery s (u.setInputs l) :=
  { h with }

/-- A request that is no write keeps the battery unit. -/
theorem KeepsBattery.after {s u : State} (h : KeepsBattery s u) {i : Instr} (htick : i ≠ .tick) (hreset : i ≠ .reset)
    (hwrite : ∀ hdr v extra, i ≠ .writePtd hdr v extra ∧ i ≠ .writeDbg hdr v extra) : KeepsBattery s (after i u) := by
  have hptd := fun hdr v extra => (hwrite hdr v extra).1
  have hdbg := fun hdr v extra => (hwrite hdr v extra).2
  obtain ⟨hrate, hsp⟩ := after_rate_sp (s := u) hreset hptd
  exact {
    config := (after_cfg i u).trans h.config
    memory := after_rm_wf h.memory i
    soc := (after_soc htick hreset u).trans h.soc
    mode := (after_mode hreset hptd htick).trans h.mode
    rate := hrate.trans h.rate
    sp := hsp.trans h.sp
    dbg := (after_dbg hreset hdbg).trans h.dbg }

/-- A step that takes a frame that is no write keeps the battery unit. -/
theorem KeepsBattery.after_frame {s u : State} (h : KeepsBattery s u) {G : Frame} (tail : List Input)
    (hwrite : ∀ hdr v extra, decode s.cfg G ≠ .writePtd hdr v extra ∧ decode s.cfg G ≠ .writeDbg hdr v extra) :
    KeepsBattery s (Machine.after (decode s.cfg G) (u.setInputs tail)) :=
  (h.setInputs tail).after (decode_ne_tick s.cfg G) (decode_ne_reset s.cfg G) hwrite

/-! ### The reply to a read -/

/-- READ_SOC and READ_PTD (41_read_requests.md R131, R132) reply alike in all states with the same battery unit. -/
theorem exists_read_reply {s : State} (hc : s.cfg.wf = true) {i : Instr} (hwf : i.wellFormed s.cfg = true)
    (hread : ∃ hdr v extra, i = .readSoc hdr v extra ∨ i = .readPtd hdr v extra) :
    ∃ r, ∀ u, KeepsBattery s u → (after i u).rsp = u.rsp ++ [r] := by
  obtain ⟨-, hsoc, hptd⟩ := Config.slots_lt hc
  obtain ⟨hdr, v, extra, rfl | rfl⟩ := hread
  · refine ⟨.frame (requestFrame hdr .readHolding s.cfg.addrSoc (socValue s.soc) extra), fun u hu => ?_⟩
    rw [after_of_exec (exec_readSoc hu.memory hdr v hwf (hu.config ▸ hsoc)), State.reply_rsp, hu.config, hu.soc]
    rfl
  · refine ⟨.frame (requestFrame hdr .readHolding s.cfg.addrPtd s.sp extra), fun u hu => ?_⟩
    rw [after_of_exec (exec_readPtd hu.memory hdr v hwf (hu.config ▸ hptd)), State.reply_rsp, hu.config, hu.sp]
    rfl

/-- Settles O29: the read and the frames between keep the battery unit (`KeepsBattery`), so the second read replies as the
first did (`exists_read_reply`), and each frame between adds one reply (`run_frames_rsp`). -/
theorem readsRepeatBetweenWrites : Obligations.ReadsRepeatBetweenWrites := by
  intro s t F between hc hm hinputs hread hbetween hrun
  have hF : ∀ hdr v extra, decode s.cfg F ≠ .writePtd hdr v extra ∧ decode s.cfg F ≠ .writeDbg hdr v extra := by
    obtain ⟨hdr, v, extra, h | h⟩ := hread <;> simp [h]
  obtain ⟨r, hr⟩ := exists_read_reply hc (decode_wellFormed s.cfg F) hread
  have hs : KeepsBattery s s := ⟨rfl, hm, rfl, rfl, rfl, rfl, rfl⟩
  have hc1 : (stepNext s).cfg.wf = true := by simpa using hc
  have hfirst := stepNext_of_input hinputs
  have hinputs1 : (stepNext s).inputs = between.map .frame ++ [.frame F] := by simp [hfirst]
  have hs1 : KeepsBattery s (stepNext s) := hfirst ▸ hs.after_frame _ hF
  have hrsp1 : (stepNext s).rsp = s.rsp ++ [r] := hfirst ▸ hr _ (hs.setInputs _)
  have hkept : ∀ inp ∈ between.map Input.frame, ∀ u tail, KeepsBattery s u →
      KeepsBattery s (after (decodeInput (stepNext s).cfg inp) (u.setInputs tail)) := by
    intro inp hmem u tail hu
    obtain ⟨G, hG, rfl⟩ := List.mem_map.1 hmem
    rw [stepNext_cfg]
    exact hu.after_frame tail (hbetween G hG)
  obtain ⟨u, hrunu, -, hlast, hu⟩ := run_inputs hc1 hinputs1 hs1 hkept
  rw [List.length_map] at hrunu
  obtain ⟨rs, hlen, hrs⟩ := run_frames_rsp hc1 hinputs1 hrunu
  have hcu : u.cfg.wf = true := hu.config ▸ hc
  have ht : t = after (decode s.cfg F) (u.setInputs []) := by
    rw [run_succ hc, run_add 1 hc1 hrunu, run_succ hcu, run_zero, stepNext_of_input hlast, hu.config] at hrun
    exact (Host.Outcome.next.inj hrun).symm
  have hst : KeepsBattery s t := ht ▸ hu.after_frame [] hF
  have hrsp : t.rsp = u.rsp ++ [r] := ht ▸ hr _ (hu.setInputs [])
  exact ⟨r, rs, hlen, by rw [hrsp, hrs, hrsp1], hst.soc, hst.mode, hst.rate, hst.sp, hst.dbg⟩

end Sys2Proof.Machine
end

section
/-! PROOF. Encoding and decoding are inverse (30_encoding.md R70 to R78), and each frame decodes to its row of the request map
(R77). Proofs about every frame split it by `decode_cases`, those about every instruction by its constructor. -/

namespace Sys2Proof

/-- Settles O1: each kind's frame passes the checks that lead to the kind and has its fields, and a
well-formed configuration's distinct addresses route a request back to its kind. -/
theorem decodeEncodeRoundTrip : Obligations.DecodeEncodeRoundTrip := by
  intro c i hc hwf
  obtain ⟨hsocPtd, -, hptdDbg, -⟩ := Config.wf_iff.1 hc
  cases i with
  | noReply bytes => exact decode_of_short (of_decide_eq_true hwf)
  | unsupportedFc hdr len fc data =>
    obtain ⟨hL, hfc⟩ := of_decide_eq_true hwf
    exact (decode_of_unsupported (by simp) (by simpa using hL) (by simpa using hfc)).trans (by simp)
  | truncated hdr len fc data =>
    obtain ⟨hL, hcut⟩ := of_decide_eq_true hwf
    exact (decode_of_truncated (fc := fc) (by simp) (by simpa using hL) (by simp) (by simpa using hcut)).trans (by simp)
  | readSoc hdr v extra => exact (decode_requestFrame_read c hdr _ v hwf).trans (decodeRead_addrSoc c hdr v extra)
  | readPtd hdr v extra => exact (decode_requestFrame_read c hdr _ v hwf).trans (decodeRead_addrPtd c hdr v extra hsocPtd)
  | readIllegal hdr a v extra =>
    obtain ⟨haddr, hx⟩ := Bool.and_eq_true_iff.1 hwf
    obtain ⟨hsoc, hptd⟩ := of_decide_eq_true haddr
    exact (decode_requestFrame_read c hdr a v hx).trans (decodeRead_other c hdr v extra hsoc hptd)
  | writePtd hdr v extra => exact (decode_requestFrame_write c hdr _ v hwf).trans (decodeWrite_addrPtd c hdr v extra hptdDbg)
  | writeDbg hdr v extra => exact (decode_requestFrame_write c hdr _ v hwf).trans (decodeWrite_addrDbg c hdr v extra)
  | writeIllegal hdr a v extra =>
    obtain ⟨haddr, hx⟩ := Bool.and_eq_true_iff.1 hwf
    obtain ⟨hptd, hdbg⟩ := of_decide_eq_true haddr
    exact (decode_requestFrame_write c hdr a v hx).trans (decodeWrite_other c hdr v extra hptd hdbg)
  | tick => rfl
  | reset => rfl

/-- The read routing loses nothing of the request: each row's instruction has, or stands for, the address. -/
theorem encode_decodeRead (c : Config) (hdr : Header) (a v : Word) (extra : Frame) :
    encode c (decodeRead c hdr a v extra) = .frame (requestFrame hdr .readHolding a v extra) := by
  unfold decodeRead
  split_ifs with hsoc hptd
  · rw [hsoc]; rfl
  · rw [hptd]; rfl
  · rfl

/-- The write routing loses nothing of the request. -/
theorem encode_decodeWrite (c : Config) (hdr : Header) (a v : Word) (extra : Frame) :
    encode c (decodeWrite c hdr a v extra) = .frame (requestFrame hdr .writeSingle a v extra) := by
  unfold decodeWrite
  split_ifs with hdbg hptd
  · rw [hdbg]; rfl
  · rw [hptd]; rfl
  · rfl

/-- Settles O2: the rows without a served request keep every byte (`headerBytes_of_frame`), and a served request keeps the
declared ones (`requestFrame_of_frame`). -/
theorem encodeDecodeGivesDeclaredFrame : Obligations.EncodeDecodeGivesDeclaredFrame := by
  intro c F
  rcases decode_cases F with h | ⟨hn, hL, hfc⟩ | ⟨fc, hn, hL, hfc, hcut⟩ | ⟨hL, hn, hfc⟩ | ⟨hL, hn, hfc⟩
  · rw [decode_of_short h, if_neg (by omega)]
    rfl
  · obtain ⟨hread, hwrite⟩ := functionCodeOf_eq_none.1 hfc
    rw [decode_of_unsupported hn hL hfc, if_neg fun h => h.2.2.2.elim hread hwrite]
    exact congrArg Input.frame (headerBytes_of_frame hn)
  · rw [decode_of_truncated hn hL hfc hcut, if_neg (by omega), encode, ← hfc]
    exact congrArg Input.frame (headerBytes_of_frame hn)
  · rw [decode_of_read hL hn hfc, encode_decodeRead, requestFrame_of_frame hL hn hfc,
      if_pos ⟨by omega, hL, hn, .inl hfc⟩]
  · rw [decode_of_write hL hn hfc, encode_decodeWrite, requestFrame_of_frame hL hn hfc,
      if_pos ⟨by omega, hL, hn, .inr hfc⟩]

/-- Settles O3: `decode_wellFormed` for the frames; R77 gives TICK and RESET no condition. -/
theorem decodedInputIsWellFormed : Obligations.DecodedInputIsWellFormed := by
  intro c inp
  cases inp with
  | frame F => exact decode_wellFormed c F
  | tick => rfl
  | reset => rfl

/-- Settles O4: one `decode_of_…` lemma per check of R100, then the routing lemma of the address. -/
theorem requestMapSelectsKind : Obligations.RequestMapSelectsKind := by
  intro c F hc n L hdr fc address value extra
  obtain ⟨hsocPtd, -, hptdDbg, -⟩ := Config.wf_iff.1 hc
  refine ⟨decode_of_short, fun hn hL hread hwrite => decode_of_unsupported hn hL (functionCodeOf_eq_none.2 ⟨hread, hwrite⟩),
    fun hn hL hfc => decode_of_truncated hn hL hfc, fun hn hL hfc => decode_of_truncated hn hL hfc,
    ?readSoc, ?readPtd, ?readIllegal, ?writePtd, ?writeDbg, ?writeIllegal, decode_ne_tick c F, decode_ne_reset c F⟩
  case readSoc =>
    intro hL hn hfc (ha : frameAddress F = c.addrSoc)
    rw [decode_of_read hL hn hfc, ha]
    exact decodeRead_addrSoc c hdr value extra
  case readPtd =>
    intro hL hn hfc (ha : frameAddress F = c.addrPtd)
    rw [decode_of_read hL hn hfc, ha]
    exact decodeRead_addrPtd c hdr value extra hsocPtd
  case readIllegal =>
    intro hL hn hfc hsoc hptd
    exact (decode_of_read hL hn hfc).trans (decodeRead_other c hdr value extra hsoc hptd)
  case writePtd =>
    intro hL hn hfc (ha : frameAddress F = c.addrPtd)
    rw [decode_of_write hL hn hfc, ha]
    exact decodeWrite_addrPtd c hdr value extra hptdDbg
  case writeDbg =>
    intro hL hn hfc (ha : frameAddress F = c.addrDbg)
    rw [decode_of_write hL hn hfc, ha]
    exact decodeWrite_addrDbg c hdr value extra
  case writeIllegal =>
    intro hL hn hfc hptd hdbg
    exact (decode_of_write hL hn hfc).trans (decodeWrite_other c hdr value extra hptd hdbg)

/-- Settles O5: the decoder run on each of the nine frames. -/
theorem writtenOutFramesDecode : Obligations.WrittenOutFramesDecode := by
  unfold Obligations.WrittenOutFramesDecode
  decide

end Sys2Proof
end

section
/-! PROOF. The layouts of the two reply frames (30_encoding.md R79 to R82), byte by byte. -/

namespace Sys2Proof

/-! ### A success reply: the declared frame after a 16-bit write -/

@[simp] theorem memWrite16_length (R : Frame) (i : Nat) (v : Word) : (memWrite16 R i v).length = R.length := by
  simp [memWrite16]

/-- Byte `k` after a 16-bit field has been written at `i` (20_memory.md R55). -/
theorem memRead8_memWrite16 {R : Frame} {i : Nat} (h : i + 1 < R.length) (v : Word) (k : Nat) :
    memRead8 (memWrite16 R i v) k = if k = i then hiByte v else if k = i + 1 then loByte v else memRead8 R k := by
  have hi : i < R.length := by omega
  unfold memRead8 memWrite16
  split_ifs with hhi hlo
  · simp [hhi, hi]
  · simp [hlo, h]
  · simp [List.getD_eq_getElem?_getD, List.getElem?_set_ne (Ne.symm hhi), List.getElem?_set_ne (Ne.symm hlo)]

/-- A declared byte of a success reply to a complete frame (R81). -/
theorem memRead8_successFrame {F : Frame} (hL : 6 ≤ frameLen F) (hn : 6 + frameLen F ≤ F.length) (v : Word) {k : Nat}
    (hk : k < 6 + frameLen F) :
    memRead8 (Machine.successFrame F v) k = if k = 10 then hiByte v else if k = 11 then loByte v else memRead8 F k := by
  have hvalue : 10 + 1 < (F.take (6 + frameLen F)).length := by
    rw [List.length_take]
    omega
  rw [Machine.successFrame, memRead8_memWrite16 hvalue, memRead8_take F hk]

/-- Settles O16: the declared frame has `6 + L` bytes, and the value field is all that is written into it. -/
theorem successReplyLayout : Obligations.SuccessReplyLayout := by
  intro F v hL hn
  have hbyte {k : Nat} (hk : k < 6 + frameLen F) := memRead8_successFrame hL hn v hk
  refine ⟨?length, ?lengthField, ?high, ?low, ?others⟩
  case length => simpa [Machine.successFrame] using hn
  case lengthField =>
    rw [memRead16, hbyte (by omega), hbyte (by omega)]
    rfl
  case high => exact hbyte (by omega)
  case low => exact hbyte (by omega)
  case others =>
    intro i hi hhi hlo
    rw [hbyte hi, if_neg hhi, if_neg hlo]

/-! ### An exception reply: bit 7 of the function code set (R80) -/

theorem getLsbD_or_bit7 (b : Byte) {j : Nat} (hj : j < 7) : (b ||| 0x80#8).getLsbD j = b.getLsbD j := by
  have hclear : (0x80#8).getLsbD j = false := by
    interval_cases j <;> rfl
  rw [BitVec.getLsbD_or, hclear, Bool.or_false]

theorem getElem_or_bit7 (b : Byte) : (b ||| 0x80#8)[7] = true := by
  rw [BitVec.getElem_or]
  exact Bool.or_true _

theorem or_bit7_of_set {b : Byte} (h : b[7] = true) : b ||| 0x80#8 = b := by
  refine BitVec.eq_of_getLsbD_eq fun j hj => ?_
  obtain hj7 | rfl : j < 7 ∨ j = 7 := by omega
  · exact getLsbD_or_bit7 b hj7
  · exact (getElem_or_bit7 b).trans h.symm

/-- Settles O15: the nine bytes as R107 lists them, and what setting bit 7 does to the function code. -/
theorem exceptionReplyLayout : Obligations.ExceptionReplyLayout := by
  intro F code _
  refine ⟨rfl, ?echoed, ?lengthField, rfl, fun _ => getLsbD_or_bit7 _, getElem_or_bit7 _, or_bit7_of_set, ?code⟩
  case echoed =>
    intro i hi
    interval_cases i <;> rfl
  case lengthField => exact (by decide : be16 0x00#8 0x03#8 = 0x0003#16)
  case code => cases code <;> rfl

end Sys2Proof
end

section
/-! PROOF. The frame codec (40_frame_codec.md): the kinds that the decoder decides (R101 to R103), that bytes after the
declared frame play no part (R111), and that decoding and executing is the spec's `Transaction` (R100). -/

namespace Sys2Proof

/-! ### The fields of a frame with further bytes behind it -/

section Append
variable {F : Frame} (junk : Frame)

theorem memRead16_append {i : Nat} (h : i + 1 < F.length) : memRead16 (F ++ junk) i = memRead16 F i := by
  rw [memRead16, memRead8_append F junk (by omega), memRead8_append F junk h, memRead16]

theorem frameLen_append (h : 6 ≤ F.length) : frameLen (F ++ junk) = frameLen F := by
  rw [frameLen, memRead16_append junk (by omega), frameLen]

theorem frameFc_append (h : 8 ≤ F.length) : frameFc (F ++ junk) = frameFc F := memRead8_append F junk h

theorem frameHeader_append (h : 7 ≤ F.length) : frameHeader (F ++ junk) = frameHeader F := by
  rw [frameHeader, memRead16_append junk (by omega), memRead16_append junk (by omega), memRead8_append F junk h, frameHeader]

theorem frameExtra_append (h : 6 + frameLen F ≤ F.length) : frameExtra (F ++ junk) = frameExtra F := by
  rw [frameExtra, frameLen_append junk (by omega), List.take_append_of_le_length h, frameExtra]

/-- A complete supported request decodes alike with further bytes behind it (R111): each field of the Decoded Request lies in
the declared bytes. -/
theorem decode_append_of_complete (c : Config) {fc : FunctionCode} (hL : 6 ≤ frameLen F) (hn : 6 + frameLen F ≤ F.length)
    (hfc : frameFc F = fc.toByte) : decode c (F ++ junk) = decode c F := by
  have hL' : 6 ≤ frameLen (F ++ junk) := by rwa [frameLen_append junk (by omega)]
  have hn' : 6 + frameLen (F ++ junk) ≤ (F ++ junk).length := by
    rw [frameLen_append junk (by omega), List.length_append]
    omega
  have hfc' : frameFc (F ++ junk) = fc.toByte := by rwa [frameFc_append junk (by omega)]
  have hheader := frameHeader_append junk (F := F) (by omega)
  have haddress : frameAddress (F ++ junk) = frameAddress F := memRead16_append junk (by omega)
  have hvalue : frameValue (F ++ junk) = frameValue F := memRead16_append junk (by omega)
  have hextra := frameExtra_append junk hn
  cases fc with
  | readHolding => rw [decode_of_read hL' hn' hfc', decode_of_read hL hn hfc, hheader, haddress, hvalue, hextra]
  | writeSingle => rw [decode_of_write hL' hn' hfc', decode_of_write hL hn hfc, hheader, haddress, hvalue, hextra]

end Append

end Sys2Proof

namespace Sys2Proof.Machine

/-! ### The kinds that the decoder decides -/

/-- Settles O17: the decoder's first two checks, and a meaning that only replies. -/
theorem noReplyResult : Obligations.NoReplyResult :=
  ⟨fun _ _ h => decode_of_short (h.imp_right And.right), fun _ _ => rfl⟩

section Rejected
variable {F : Frame} (s : State)

/-- R102 on the bytes of the frame. -/
theorem exec_decode_of_unsupported (hn : 8 ≤ F.length) (hL : 2 ≤ frameLen F) (hfc : functionCodeOf (frameFc F) = none) :
    exec (decode s.cfg F) s = .next (s.raiseExc F .illegalFunction) := by
  rw [decode_of_unsupported hn hL hfc, exec_unsupportedFc, headerBytes_of_frame hn]

/-- R103 on the bytes of the frame. -/
theorem exec_decode_of_truncated {fc : FunctionCode} (hn : 8 ≤ F.length) (hL : 2 ≤ frameLen F)
    (hfc : frameFc F = fc.toByte) (hcut : frameLen F < 6 ∨ F.length < 6 + frameLen F) :
    exec (decode s.cfg F) s = .next (s.raiseExc F s.cfg.truncExc) := by
  rw [decode_of_truncated hn hL hfc hcut, exec_truncated, ← hfc, headerBytes_of_frame hn]

end Rejected

/-- Settles O18: the exception frame echoes the header bytes alone (`excFrame_headerBytes`), so the data play no part. -/
theorem unsupportedFcResult : Obligations.UnsupportedFcResult := by
  refine ⟨fun s F hn hL hread hwrite => ?frame, fun hdr len fc data s => ?instruction⟩
  case frame => exact exec_decode_of_unsupported s hn hL (functionCodeOf_eq_none.2 ⟨hread, hwrite⟩)
  case instruction =>
    rw [exec_unsupportedFc, State.raiseExc, excFrame_headerBytes]
    rfl

/-- Settles O19: as for UNSUPPORTED_FC, with the code that the configuration holds. -/
theorem truncatedResult : Obligations.TruncatedResult := by
  refine ⟨fun s F hn hL hfc hcut => ?frame, fun hdr len fc data s => ?instruction⟩
  case frame =>
    obtain ⟨fc, hfc⟩ : ∃ fc : FunctionCode, frameFc F = fc.toByte := hfc.elim (⟨.readHolding, ·⟩) (⟨.writeSingle, ·⟩)
    exact exec_decode_of_truncated s hn hL hfc hcut
  case instruction =>
    rw [exec_truncated, State.raiseExc, excFrame_headerBytes]
    rfl

/-- An exception frame echoes header bytes alone (R107), so further bytes behind them do not change it. -/
theorem excFrame_append {F : Frame} (junk : Frame) (hn : 8 ≤ F.length) (code : ExcCode) :
    excFrame (F ++ junk) code = excFrame F code := by
  have hbyte {i : Nat} (hi : i < 8) : memRead8 (F ++ junk) i = memRead8 F i := memRead8_append F junk (by omega)
  simp [excFrame, hbyte]

/-- Settles O6: a frame without a function code gets no reply, an unsupported or truncated one an exception frame without its
data, and of a complete request the decoder reads the declared bytes alone. -/
theorem bytesAfterDeclaredFrameIgnored : Obligations.BytesAfterDeclaredFrameIgnored := by
  intro s F junk hdeclared
  have hlen : F.length ≤ (F ++ junk).length := by simp
  have hL' : frameLen (F ++ junk) = frameLen F := frameLen_append junk (by omega)
  rcases decode_cases F with h | ⟨hn, hL, hfc⟩ | ⟨fc, hn, hL, hfc, hcut⟩ | ⟨hL, hn, hfc⟩ | ⟨hL, hn, hfc⟩
  · rw [decode_of_short (F := F ++ junk) (.inr (by omega)), decode_of_short h, exec_noReply, exec_noReply]
  · rw [exec_decode_of_unsupported s (F := F ++ junk) (by omega) (by omega) (by rwa [frameFc_append junk hn]),
      exec_decode_of_unsupported s hn hL hfc, State.raiseExc, excFrame_append junk hn, State.raiseExc]
  · rw [exec_decode_of_truncated s (F := F ++ junk) (fc := fc) (by omega) (by omega) (by rwa [frameFc_append junk hn])
        (.inl (by omega)),
      exec_decode_of_truncated s hn hL hfc hcut, State.raiseExc, excFrame_append junk hn, State.raiseExc]
  · rw [decode_append_of_complete junk s.cfg hL hn hfc]
  · rw [decode_append_of_complete junk s.cfg hL hn hfc]

end Sys2Proof.Machine
end

section
/-! PROOF. Decoding and executing a frame is the spec's `Transaction` (40_frame_codec.md R100, 41_read_requests.md R130,
42_write_requests.md R150). Both sides are given check by check, in the order of `decode_cases`. -/

namespace Sys2Proof.Machine

/-! ### Served frames, decoded and executed: the handlers of the pseudocode -/

/-- Executing what the read routing selects is `HandleRead` with its result replied. -/
theorem exec_decodeRead (s : State) (hdr : Header) (a v : Word) (extra : Frame) :
    exec (decodeRead s.cfg hdr a v extra) s =
      .next (replyResult (requestFrame hdr .readHolding a v extra) (handleRead a v s)) := by
  unfold decodeRead handleRead
  split_ifs with hsoc hptd
  · subst hsoc; rfl
  · subst hptd; rfl
  · rfl

/-- Executing what the write routing selects is `HandleWrite` with its result replied. -/
theorem exec_decodeWrite (s : State) (hdr : Header) (a v : Word) (extra : Frame) :
    exec (decodeWrite s.cfg hdr a v extra) s =
      .next (replyResult (requestFrame hdr .writeSingle a v extra) (handleWrite a v s)) := by
  unfold decodeWrite handleWrite
  split_ifs with hdbg hptd
  · subst hdbg; rfl
  · subst hptd; rfl
  · rfl

/-- A reply is made from the declared bytes alone (R106, R107). -/
theorem replyResult_take {F : Frame} (hL : 2 ≤ frameLen F) (res : HandlerResult × State) :
    replyResult (F.take (6 + frameLen F)) res = replyResult F res := by
  obtain ⟨slot | code, u⟩ := res
  · rw [replyResult, successFrame_take, replyResult]
  · rw [replyResult, excFrame_take hL, replyResult]

section Served
variable {F : Frame} (s : State) (hL : 6 ≤ frameLen F) (hn : 6 + frameLen F ≤ F.length)
include hL hn

theorem exec_decode_of_read (hfc : frameFc F = FunctionCode.readHolding.toByte) :
    exec (decode s.cfg F) s = .next (replyResult F (handleRead (frameAddress F) (frameValue F) s)) := by
  rw [decode_of_read hL hn hfc, exec_decodeRead, requestFrame_of_frame hL hn hfc, replyResult_take (by omega)]

theorem exec_decode_of_write (hfc : frameFc F = FunctionCode.writeSingle.toByte) :
    exec (decode s.cfg F) s = .next (replyResult F (handleWrite (frameAddress F) (frameValue F) s)) := by
  rw [decode_of_write hL hn hfc, exec_decodeWrite, requestFrame_of_frame hL hn hfc, replyResult_take (by omega)]

end Served

/-! ### `Transaction`, check by check -/

section Checks
variable {F : Frame} (s : State)

theorem transaction_of_short (h : F.length < 8 ∨ frameLen F < 2) : transaction F s = s.reply .noReply := by
  by_cases hn : F.length < 8
  · exact if_pos hn
  · exact (if_neg hn).trans (if_pos (h.resolve_left hn))

theorem transaction_of_unsupported (hn : 8 ≤ F.length) (hL : 2 ≤ frameLen F) (hfc : functionCodeOf (frameFc F) = none) :
    transaction F s = s.raiseExc F .illegalFunction :=
  (if_neg (Nat.not_lt.2 hn)).trans ((if_neg (Nat.not_lt.2 hL)).trans (if_pos (functionCodeOf_eq_none.1 hfc)))

/-- Past the check of the function code. -/
theorem transaction_of_supported {fc : FunctionCode} (hn : 8 ≤ F.length) (hL : 2 ≤ frameLen F)
    (hfc : frameFc F = fc.toByte) :
    transaction F s = if frameLen F < 6 ∨ F.length < 6 + frameLen F then s.raiseExc F s.cfg.truncExc
      else if frameFc F = FunctionCode.readHolding.toByte then replyResult F (handleRead (frameAddress F) (frameValue F) s)
      else replyResult F (handleWrite (frameAddress F) (frameValue F) s) := by
  have hsupported : ¬ (frameFc F ≠ 0x03#8 ∧ frameFc F ≠ 0x06#8) := by simp [← functionCodeOf_eq_none, hfc]
  exact (if_neg (Nat.not_lt.2 hn)).trans ((if_neg (Nat.not_lt.2 hL)).trans (if_neg hsupported))

theorem transaction_of_truncated {fc : FunctionCode} (hn : 8 ≤ F.length) (hL : 2 ≤ frameLen F)
    (hfc : frameFc F = fc.toByte) (hcut : frameLen F < 6 ∨ F.length < 6 + frameLen F) :
    transaction F s = s.raiseExc F s.cfg.truncExc := by
  rw [transaction_of_supported s hn hL hfc, if_pos hcut]

theorem transaction_of_read (hL : 6 ≤ frameLen F) (hn : 6 + frameLen F ≤ F.length)
    (hfc : frameFc F = FunctionCode.readHolding.toByte) :
    transaction F s = replyResult F (handleRead (frameAddress F) (frameValue F) s) := by
  rw [transaction_of_supported s (by omega) (by omega) hfc, if_neg (by omega), if_pos hfc]

theorem transaction_of_write (hL : 6 ≤ frameLen F) (hn : 6 + frameLen F ≤ F.length)
    (hfc : frameFc F = FunctionCode.writeSingle.toByte) :
    transaction F s = replyResult F (handleWrite (frameAddress F) (frameValue F) s) := by
  rw [transaction_of_supported s (by omega) (by omega) hfc, if_neg (by omega), if_neg (by rw [hfc]; decide)]

end Checks

/-- Settles O12: under each condition of the request map, the frame's execution and the pseudocode's branch agree. -/
theorem executionRefinesTransaction : Obligations.ExecutionRefinesTransaction := by
  intro s F
  rcases decode_cases F with h | ⟨hn, hL, hfc⟩ | ⟨fc, hn, hL, hfc, hcut⟩ | ⟨hL, hn, hfc⟩ | ⟨hL, hn, hfc⟩
  · rw [decode_of_short h, exec_noReply, transaction_of_short s h]
  · rw [exec_decode_of_unsupported s hn hL hfc, transaction_of_unsupported s hn hL hfc]
  · rw [exec_decode_of_truncated s hn hL hfc hcut, transaction_of_truncated s hn hL hfc hcut]
  · rw [exec_decode_of_read s hL hn hfc, transaction_of_read s hL hn hfc]
  · rw [exec_decode_of_write s hL hn hfc, transaction_of_write s hL hn hfc]

end Sys2Proof.Machine
end

section
/-! PROOF. The reply to a frame: a rejected frame's reply is all that leaves (40_frame_codec.md R110), and replies leave one
per frame, in the order of the frames (R109). -/

namespace Sys2Proof.Machine

/-! ### Rejected and served transactions -/

/-- The kinds whose handler succeeds: READ_SOC, READ_PTD, WRITE_PTD and WRITE_DBG. -/
def IsServed (i : Instr) : Prop :=
  ∃ hdr v extra, i = .readSoc hdr v extra ∨ i = .readPtd hdr v extra ∨ i = .writePtd hdr v extra ∨ i = .writeDbg hdr v extra

/-- From `s` to `t` the frame `F` is answered by NoReply or by its exception frame, and nothing else happens. -/
def Rejects (F : Frame) (s t : State) : Prop :=
  ∃ r, t = s.reply r ∧ (r = .noReply ∨ ∃ code, r = .frame (excFrame F code))

/-- From `s` to `t` one reply leaves, with the twelve bytes of a request and perhaps more. -/
def RepliesRequest (s t : State) : Prop := ∃ R : Frame, 12 ≤ R.length ∧ t.rsp = s.rsp ++ [.frame R]

/-- A handler raises IllegalDataAddress and writes nothing, or the kind `i` is served and no reply has left yet. -/
def HandlerCases (i : Instr) (s : State) (res : HandlerResult × State) : Prop :=
  res = (.exc .illegalDataAddress, s) ∨ (IsServed i ∧ ∃ slot u, res = (.success slot, u) ∧ u.rsp = s.rsp)

section Handlers
variable (s : State) (hdr : Header) (a v : Word) (extra : Frame)

theorem handleRead_cases : HandlerCases (decodeRead s.cfg hdr a v extra) s (handleRead a v s) := by
  unfold decodeRead handleRead
  split_ifs
  · exact .inr ⟨⟨hdr, v, extra, .inl rfl⟩, _, _, rfl, by simp⟩
  · exact .inr ⟨⟨hdr, v, extra, .inr (.inl rfl)⟩, _, _, rfl, by simp⟩
  · exact .inl rfl

theorem handleWrite_cases : HandlerCases (decodeWrite s.cfg hdr a v extra) s (handleWrite a v s) := by
  unfold decodeWrite handleWrite
  split_ifs
  · exact .inr ⟨⟨hdr, v, extra, .inr (.inr (.inr rfl))⟩, _, _, rfl, by simp⟩
  · exact .inr ⟨⟨hdr, v, extra, .inr (.inr (.inl rfl))⟩, _, _, rfl, by simp⟩
  · exact .inl rfl

end Handlers

/-- What a handler's result makes of a complete frame. -/
theorem HandlerCases.replyResult {i : Instr} {s : State} {res : HandlerResult × State} (h : HandlerCases i s res) {F : Frame}
    (hL : 6 ≤ frameLen F) (hn : 6 + frameLen F ≤ F.length) :
    Rejects F s (replyResult F res) ∨ (IsServed i ∧ RepliesRequest s (replyResult F res)) := by
  obtain rfl | ⟨hserved, slot, u, rfl, hrsp⟩ := h
  · exact .inl ⟨_, rfl, .inr ⟨_, rfl⟩⟩
  · obtain ⟨hlength, -⟩ := successReplyLayout F (u.regRead slot) hL hn
    exact .inr ⟨hserved, _, by omega, congrArg (· ++ _) hrsp⟩

/-- Every transaction rejects its frame, or serves one of the four kinds. -/
theorem after_decode_cases (s : State) (F : Frame) :
    Rejects F s (after (decode s.cfg F) s)
    ∨ (IsServed (decode s.cfg F) ∧ RepliesRequest s (after (decode s.cfg F) s)) := by
  rcases decode_cases F with h | ⟨hn, hL, hfc⟩ | ⟨fc, hn, hL, hfc, hcut⟩ | ⟨hL, hn, hfc⟩ | ⟨hL, hn, hfc⟩
  · rw [decode_of_short h]
    exact .inl ⟨_, rfl, .inl rfl⟩
  · rw [after_of_exec (exec_decode_of_unsupported s hn hL hfc)]
    exact .inl ⟨_, rfl, .inr ⟨_, rfl⟩⟩
  · rw [after_of_exec (exec_decode_of_truncated s hn hL hfc hcut)]
    exact .inl ⟨_, rfl, .inr ⟨_, rfl⟩⟩
  · rw [after_of_exec (exec_decode_of_read s hL hn hfc), decode_of_read hL hn hfc]
    exact (handleRead_cases s _ _ _ _).replyResult hL hn
  · rw [after_of_exec (exec_decode_of_write s hL hn hfc), decode_of_write hL hn hfc]
    exact (handleWrite_cases s _ _ _ _).replyResult hL hn

/-- The reply of a served transaction is neither NoReply nor an exception frame, which has nine bytes. -/
theorem RepliesRequest.not_rejection {s t : State} (h : RepliesRequest s t) :
    ¬ (t.rsp = s.rsp ++ [.noReply] ∨ ∃ G code, t.rsp = s.rsp ++ [.frame (excFrame G code)]) := by
  obtain ⟨R, hlength, hrsp⟩ := h
  rw [hrsp]
  rintro (hnone | ⟨G, code, hexc⟩)
  · simp at hnone
  · obtain rfl : R = excFrame G code := by simpa using hexc
    exact absurd hlength (by simp [excFrame])

/-- Settles O22: a rejected frame's reply is its transaction's only effect, and a served one replies otherwise
(`after_decode_cases`). -/
theorem rejectedTransactionWritesNoState : Obligations.RejectedTransactionWritesNoState := by
  intro s t F rest hinputs hstep
  obtain ⟨hc, -⟩ := step_cases hstep
  rw [step_of_input hc hinputs] at hstep
  obtain rfl := after_of_exec hstep
  obtain ⟨r, ht, hr⟩ | ⟨hserved, hreply⟩ := after_decode_cases (s.setInputs rest) F
  · change after (decodeInput s.cfg (.frame F)) (s.setInputs rest) = _ at ht
    rw [ht]
    refine ⟨fun _ => ?_, fun _ => rfl⟩
    obtain rfl | ⟨code, rfl⟩ := hr
    · exact .inl rfl
    · exact .inr ⟨code, rfl⟩
  · refine ⟨fun hkinds => ?_, fun hrejected => absurd hrejected hreply.not_rejection⟩
    obtain ⟨hdr, v, extra, hkind⟩ := hserved
    obtain ⟨hsoc, hptd, hwptd, hdbg⟩ := hkinds hdr v extra
    exact absurd hkind (by simp [hsoc, hptd, hwptd, hdbg])

/-! ### The order of the replies -/

/-- A step that takes a frame sends one reply. -/
theorem exists_stepNext_frame {s : State} {F : Frame} {rest : List Input} (hinputs : s.inputs = .frame F :: rest) :
    ∃ r, (stepNext s).rsp = s.rsp ++ [r] ∧ (stepNext s).inputs = rest := by
  obtain ⟨r, hr⟩ := exists_rsp_after (decode_ne_tick s.cfg F) (decode_ne_reset s.cfg F) (s.setInputs rest)
  rw [stepNext_of_input hinputs]
  exact ⟨r, hr, after_inputs _ _⟩

/-- Settles O23, by induction on the frames: the first step sends the first frame's reply, and the other replies follow it. -/
theorem repliesFollowFrames : Obligations.RepliesFollowFrames := by
  intro s Fs hc hinputs
  induction Fs generalizing s with
  | nil =>
    refine ⟨[], rfl, fun k hk => ?_⟩
    obtain rfl : k = 0 := Nat.le_zero.1 hk
    exact ⟨s, rfl, (List.append_nil _).symm, hinputs⟩
  | cons F Fs ih =>
    obtain ⟨r, hfirst, hrest⟩ := exists_stepNext_frame hinputs
    obtain ⟨rs, hlen, hfollow⟩ := ih (stepNext s) (by simpa using hc) hrest
    refine ⟨r :: rs, by simp [hlen], fun k hk => ?_⟩
    cases k with
    | zero => exact ⟨s, rfl, (List.append_nil _).symm, hinputs⟩
    | succ k =>
      obtain ⟨t, hrun, hrsp, hleft⟩ := hfollow k (Nat.le_of_succ_le_succ hk)
      exact ⟨t, (run_succ hc k).trans hrun, by simp [hrsp, hfirst], hleft⟩

end Sys2Proof.Machine
end

section
/-! PROOF. Read Holding Registers (41_read_requests.md R131 to R135): the register value of the state of charge, and what each of
the three read kinds does. -/

namespace Sys2Proof

/-- Settles O27: in range `SocValue` does not wrap (`socValue_toNat`), so it is the floor of `10 * soc + 1/2`. -/
theorem socValueRoundsHalvesUp : Obligations.SocValueRoundsHalvesUp := by
  constructor
  · intro soc hlow hhigh
    have hfloor : ((socValue soc).toNat : Rat) = ⌊10 * soc + 1 / 2⌋ :=
      congrArg (Int.cast (R := Rat)) (socValue_toNat hlow hhigh)
    rw [hfloor]
    exact ⟨socValue_le hlow hhigh, Int.floor_le _, Int.lt_floor_add_one _⟩
  · decide +kernel

/-- R133: the debug address, address 0 and the addresses outside the Register Map are not readable. -/
theorem Config.not_readable {c : Config} (hc : c.wf = true) {a : Word}
    (h : a = c.addrDbg ∨ a = 0#16 ∨ c.regmapN ≤ a.toNat) : a ≠ c.addrSoc ∧ a ≠ c.addrPtd := by
  obtain ⟨-, hsocDbg, hptdDbg, -⟩ := Config.wf_iff.1 hc
  obtain ⟨hsocPos, hptdPos, -⟩ := Config.slots_distinct hc
  obtain ⟨-, hsocLt, hptdLt⟩ := Config.slots_lt hc
  obtain rfl | rfl | hout := h
  · exact ⟨hsocDbg.symm, hptdDbg.symm⟩
  · exact ⟨fun heq => hsocPos (congrArg BitVec.toNat heq.symm), fun heq => hptdPos (congrArg BitVec.toNat heq.symm)⟩
  · constructor <;> rintro rfl <;> omega

end Sys2Proof

namespace Sys2Proof.Machine

/-! ### The value field of a request plays no part in its reply -/

section ValueField
variable (s : State) (hdr : Header) (fc : FunctionCode) (a v w : Word) {extra : Frame}

/-- R106: a success reply carries the slot in place of the request's value field. -/
theorem State.succeed_value_irrelevant (hx : extraFits extra = true) (slot : Nat) :
    s.succeed (requestFrame hdr fc a v extra) slot = s.succeed (requestFrame hdr fc a w extra) slot := by
  rw [State.succeed, State.succeed, successFrame_requestFrame _ _ _ _ hx, successFrame_requestFrame _ _ _ _ hx]

/-- R107: an exception reply has no value field. -/
theorem State.raiseExc_value_irrelevant (code : ExcCode) :
    s.raiseExc (requestFrame hdr fc a v extra) code = s.raiseExc (requestFrame hdr fc a w extra) code := by
  rw [State.raiseExc, State.raiseExc, excFrame_requestFrame, excFrame_requestFrame]

end ValueField

/-- Settles O28: each read's meaning uses the value field in its reply alone, and no reply depends on it. -/
theorem readValueFieldIgnored : Obligations.ReadValueFieldIgnored := by
  intro hdr a v w extra s hx
  rw [← extraFits_iff] at hx
  exact ⟨congrArg Host.Outcome.next (State.succeed_value_irrelevant _ hdr _ _ v w hx _),
    congrArg Host.Outcome.next (State.succeed_value_irrelevant _ hdr _ _ v w hx _),
    congrArg Host.Outcome.next (State.raiseExc_value_irrelevant s hdr _ a v w _)⟩

/-! ### READ_SOC -/

/-- Writing into a slot what it holds changes nothing. -/
theorem Memory.write_of_read {m : Memory} (h : Memory.wf m = true) {i : Nat} {v : Word} (hv : m.read i = v) :
    m.write i v = m := by
  refine Memory.eq_of_read (Memory.write_wf h i v) h fun k => ?_
  rw [Memory.read_write h]
  split_ifs with hk
  · rw [hk, hv]
  · rfl

/-- A READ_SOC that finds its slot up to date only replies (R131). -/
theorem exec_readSoc_of_slot {s : State} (hm : Memory.wf s.rm = true) (hdr : Header) (v : Word) {extra : Frame}
    (hx : extraFits extra = true) (hs : s.cfg.addrSoc.toNat < s.cfg.regmapN)
    (hslot : s.rm.read s.cfg.addrSoc.toNat = socValue s.soc) :
    exec (.readSoc hdr v extra) s =
      .next (s.reply (.frame (requestFrame hdr .readHolding s.cfg.addrSoc (socValue s.soc) extra))) := by
  rw [exec_readSoc hm hdr v hx hs, Memory.write_of_read hm hslot]
  rfl

/-- Settles O24: the first READ_SOC writes its slot and replies (`exec_readSoc`); the second finds the slot up to date
(`exec_readSoc_of_slot`). -/
theorem readSocResult : Obligations.ReadSocResult := by
  refine ⟨?decodes, ?executes, by decide +kernel, by decide +kernel, by decide +kernel, fun _ => socValue_le⟩
  case decodes =>
    intro c F hL hn hfc (ha : frameAddress F = c.addrSoc)
    rw [decode_of_read hL hn hfc, ha]
    exact decodeRead_addrSoc c _ _ _
  case executes =>
    intro hdr hdr' v v' extra extra' s hc hm hx hx'
    rw [← extraFits_iff] at hx hx'
    obtain ⟨-, hsoc, -⟩ := Config.slots_lt hc
    have hread := Memory.read_write hm s.cfg.addrSoc.toNat (socValue s.soc)
    exact ⟨_, _, exec_readSoc hm hdr v hx hsoc,
      exec_readSoc_of_slot (Memory.write_wf hm _ _) hdr' v' hx' hsoc ((hread _).trans (if_pos rfl)), rfl, hread, rfl⟩

/-! ### READ_PTD -/

/-- Settles O25: the request map's row, READ_PTD's meaning by `exec_readPtd`, and the reset value of `SP`. -/
theorem readPtdResult : Obligations.ReadPtdResult := by
  refine ⟨?decodes, ?executes, fun _ => rfl⟩
  case decodes =>
    intro c F hc hL hn
    obtain ⟨-, -, -, -, -, hptd, -⟩ := requestMapSelectsKind c F hc
    exact hptd hL hn
  case executes =>
    intro hdr v extra s hc hm hx
    obtain ⟨-, -, hptd⟩ := Config.slots_lt hc
    exact ⟨_, exec_readPtd hm hdr v (extraFits_iff.2 hx) hptd, Memory.read_write hm _ _⟩

/-! ### READ_ILLEGAL -/

/-- Settles O26: every address named is neither of the two readable ones (`Config.not_readable`), and the exception frame has
header fields alone (`excFrame_requestFrame`). -/
theorem readIllegalResult : Obligations.ReadIllegalResult := by
  constructor
  · intro c F hc hL hn hfc haddress
    obtain ⟨hsoc, hptd⟩ := haddress.elim id (Config.not_readable hc)
    obtain ⟨-, -, -, -, -, -, hillegal, -⟩ := requestMapSelectsKind c F hc
    exact hillegal hL hn hfc hsoc hptd
  · intro hdr a v extra s
    rw [exec_readIllegal, State.raiseExc, excFrame_requestFrame]
    rfl

end Sys2Proof.Machine
end

section
/-! PROOF. Reads of the state of charge repeat between ticks (41_read_requests.md R131, 20_memory.md R57), the writes between
included, because no frame writes `soc` (43_tick.md R184). -/

namespace Sys2Proof.Machine

/-- `u` has what a READ_SOC of `s` can see. -/
structure KeepsSoc (s u : State) : Prop where
  config : u.cfg = s.cfg
  memory : Memory.wf u.rm = true
  soc : u.soc = s.soc

section Frames
variable {s u : State} (h : KeepsSoc s u)
include h

/-- Whatever a frame asks for, it keeps the state of charge. -/
theorem KeepsSoc.after_frame (F : Frame) (tail : List Input) :
    KeepsSoc s (after (decode s.cfg F) (u.setInputs tail)) where
  config := (after_cfg _ _).trans h.config
  memory := after_rm_wf (s := u.setInputs tail) h.memory _
  soc := (after_soc (decode_ne_tick s.cfg F) (decode_ne_reset s.cfg F) _).trans h.soc

variable (hc : s.cfg.wf = true)
include hc

/-- A run over frames keeps the state of charge and sends one reply for each. -/
theorem KeepsSoc.run_frames {Fs : List Frame} {rest : List Input} (hinputs : u.inputs = Fs.map .frame ++ rest) :
    ∃ t rs, run Fs.length u = .next t ∧ KeepsSoc s t ∧ t.inputs = rest ∧ rs.length = Fs.length ∧ t.rsp = u.rsp ++ rs := by
  have hcu : u.cfg.wf = true := h.config ▸ hc
  have hkept : ∀ inp ∈ Fs.map Input.frame, ∀ w tail, KeepsSoc s w →
      KeepsSoc s (after (decodeInput u.cfg inp) (w.setInputs tail)) := by
    intro inp hmem w tail hw
    obtain ⟨F, -, rfl⟩ := List.mem_map.1 hmem
    rw [h.config]
    exact hw.after_frame F tail
  obtain ⟨t, hrun, -, hrest, ht⟩ := run_inputs hcu hinputs h hkept
  rw [List.length_map] at hrun
  obtain ⟨rs, hlen, hrsp⟩ := run_frames_rsp hcu hinputs hrun
  exact ⟨t, rs, hrun, ht, hrest, hlen, hrsp⟩

/-- A step that takes a READ_SOC replies the value of the state of charge. -/
theorem KeepsSoc.stepNext_readSoc {F : Frame} {rest : List Input} (hinputs : u.inputs = .frame F :: rest) {hdr : Header}
    {v : Word} {extra : Frame} (hF : decode s.cfg F = .readSoc hdr v extra) :
    KeepsSoc s (stepNext u) ∧ (stepNext u).inputs = rest ∧ (stepNext u).rsp =
      u.rsp ++ [.frame (requestFrame hdr .readHolding s.cfg.addrSoc (socValue s.soc) extra)] := by
  have hnext : stepNext u = after (decode s.cfg F) (u.setInputs rest) := h.config ▸ stepNext_of_input hinputs
  have hx : extraFits extra = true := by simpa [hF, Instr.wellFormed] using decode_wellFormed s.cfg F
  obtain ⟨-, hslot, -⟩ := Config.slots_lt hc
  rw [hnext]
  refine ⟨h.after_frame F rest, after_inputs _ _, ?_⟩
  rw [hF, after_of_exec (exec_readSoc (s := u.setInputs rest) h.memory hdr v hx (h.config ▸ hslot)), ← h.config, ← h.soc]
  rfl

end Frames

/-- Settles O30: both reads reply the value of `s.soc` (`KeepsSoc.stepNext_readSoc`), which the frames between keep
(`KeepsSoc.run_frames`). -/
theorem socReadsRepeatBetweenTicks : Obligations.SocReadsRepeatBetweenTicks := by
  intro s t F G between hdr hdr' v v' extra extra' hc hm hinputs hF hG hrun
  have hs : KeepsSoc s s := ⟨rfl, hm, rfl⟩
  obtain ⟨hs1, hinputs1, hfirst⟩ := hs.stepNext_readSoc hc hinputs hF
  obtain ⟨u, rs, hrunu, hu, hlast, hlen, hrs⟩ := hs1.run_frames hc hinputs1
  obtain ⟨-, -, hsecond⟩ := hu.stepNext_readSoc hc hlast hG
  obtain rfl : stepNext u = t := by
    rw [run_succ hc, run_add 1 (hs1.config ▸ hc) hrunu, run_succ (hu.config ▸ hc), run_zero] at hrun
    exact Host.Outcome.next.inj hrun
  exact ⟨rs, hlen, by simp only [← requestFrame_readHolding, hsecond, hrs, hfirst]⟩

end Sys2Proof.Machine
end

section
/-! PROOF. Write Single Register (42_write_requests.md R151 to R158): the setpoint handler's numbers, and what each of the three
write kinds does. -/

namespace Sys2Proof

/-! ### The setpoint operand -/

/-- R153: bit 15 is the sign of the setpoint. -/
theorem bit15_eq_true_iff {raw : Word} : raw[15] = true ↔ 32768 ≤ raw.toNat := by
  rw [BitVec.getElem_eq_testBit_toNat, Nat.testBit_eq_decide_div_mod_eq, decide_eq_true_iff]
  have hlt := raw.isLt
  omega

theorem bit15_eq_false_iff {raw : Word} : raw[15] = false ↔ raw.toNat < 32768 := by
  rw [← Bool.not_eq_true, bit15_eq_true_iff, not_le]

/-- R156: the range of `magnitude`, its end `0x8000` included. -/
theorem magnitude_mem {raw : Word} (h : raw[15] = true) : 1 ≤ magnitude raw ∧ magnitude raw ≤ 32768 := by
  have hlow := bit15_eq_true_iff.1 h
  have hlt := raw.isLt
  unfold magnitude
  omega

theorem sext16_of_bit15 {raw : Word} (h : raw[15] = true) : sext16 raw = -(magnitude raw : Int) := by
  have hlow := bit15_eq_true_iff.1 h
  have hlt := raw.isLt
  rw [sext16, if_neg (by omega), magnitude]
  omega

theorem sext16_of_not_bit15 {raw : Word} (h : raw[15] = false) : sext16 raw = (raw.toNat : Int) :=
  if_pos (bit15_eq_false_iff.1 h)

/-- R156: the range of a positive setpoint. -/
theorem toNat_mem_of_discharge {raw : Word} (h : raw[15] = false) (h0 : raw ≠ 0) : 1 ≤ raw.toNat ∧ raw.toNat ≤ 32767 := by
  have hhigh := bit15_eq_false_iff.1 h
  have hpos : raw.toNat ≠ 0 := fun hzero => h0 (BitVec.eq_of_toNat_eq hzero)
  omega

/-! ### The three branches of R152 -/

theorem setpoint_cases (raw : Word) : raw[15] = true ∨ (raw[15] = false ∧ raw ≠ 0) ∨ raw = 0 := by
  cases raw[15] <;> tauto

section Branches
variable (c : Config) {raw : Word}

theorem setpointRate_charge (h : raw[15] = true) : setpointRate c raw = (magnitude raw : Rat) * chargeResolution c :=
  if_pos h

theorem setpointRate_discharge (h : raw[15] = false) (h0 : raw ≠ 0) :
    setpointRate c raw = (raw.toNat : Rat) * dischargeResolution c :=
  (if_neg (Bool.not_eq_true _ ▸ h)).trans (if_pos h0)

@[simp] theorem setpointRate_zero : setpointRate c 0 = 0 := rfl

theorem setpointMode_charge (h : raw[15] = true) : Machine.setpointMode raw = .charging := if_pos h

theorem setpointMode_discharge (h : raw[15] = false) (h0 : raw ≠ 0) : Machine.setpointMode raw = .discharging :=
  (if_neg (Bool.not_eq_true _ ▸ h)).trans (if_pos h0)

@[simp] theorem setpointMode_zero : Machine.setpointMode 0 = .idle := rfl

variable {c} (hc : c.wf = true)
include hc

/-- R156: neither resolution divides by 0. -/
theorem Config.divisors_pos : 0 < (c.pKw : Rat) * (c.tChg : Rat) ∧ 0 < (c.pKw : Rat) * (c.tDis : Rat) := by
  obtain ⟨-, -, -, -, -, -, -, -, -, hkw, hchg, hdis, -⟩ := Config.wf_iff.1 hc
  constructor <;> positivity

/-- R156: every setpoint but 0 moves the battery. -/
theorem setpointRate_pos (h0 : raw ≠ 0) : 0 < setpointRate c raw := by
  obtain ⟨hchg, hdis⟩ := Config.divisors_pos hc
  obtain h | ⟨h, -⟩ | h := setpoint_cases raw
  · have hmag : (0 : Rat) < magnitude raw := Nat.cast_pos.2 (magnitude_mem h).1
    rw [setpointRate_charge c h]
    exact mul_pos hmag (div_pos (by norm_num) hchg)
  · have hraw : (0 : Rat) < raw.toNat := Nat.cast_pos.2 (toNat_mem_of_discharge h h0).1
    rw [setpointRate_discharge c h h0]
    exact mul_pos hraw (div_pos (by norm_num) hdis)
  · exact absurd h h0

end Branches

/-- Settles O33: the divisors are positive (`Config.divisors_pos`), so the rate is 0 for the setpoint 0 alone
(`setpointRate_pos`), and bit 15 gives the range of each branch. -/
theorem setpointArithmetic : Obligations.SetpointArithmetic := by
  intro c raw hc
  obtain ⟨hchg, hdis⟩ := Config.divisors_pos hc
  refine ⟨hchg.ne', hdis.ne', setpointRate_nonneg c raw, ?zero, ?charge, ?discharge⟩
  case zero =>
    constructor
    · intro hrate
      by_contra h0
      exact (setpointRate_pos hc h0).ne' hrate
    · rintro rfl
      exact setpointRate_zero c
  case charge =>
    intro h
    refine ⟨sext16_of_bit15 h, (magnitude_mem h).1, (magnitude_mem h).2, ?_⟩
    rw [setpointRate_charge c h, chargeResolution, mul_div_assoc', mul_comm (100 : Rat)]
  case discharge =>
    intro h h0
    refine ⟨sext16_of_not_bit15 h, (toNat_mem_of_discharge h h0).1, (toNat_mem_of_discharge h h0).2, ?_⟩
    rw [setpointRate_discharge c h h0, dischargeResolution, mul_div_assoc', mul_comm (100 : Rat)]

/-- R158: `ADDR_SOC`, address 0 and the addresses outside the Register Map are not writable, where they are not the debug
address. -/
theorem Config.not_writable {c : Config} (hc : c.wf = true) {a : Word}
    (h : a = c.addrSoc ∨ (a = 0#16 ∧ c.addrDbg ≠ 0#16) ∨ (c.regmapN ≤ a.toNat ∧ a ≠ c.addrDbg)) :
    a ≠ c.addrPtd ∧ a ≠ c.addrDbg := by
  obtain rfl | ⟨rfl, hdbg⟩ | ⟨hout, hdbg⟩ := h
  · obtain ⟨hptd, hdbg, -⟩ := Config.wf_iff.1 hc
    exact ⟨hptd, hdbg⟩
  · exact ⟨(Config.not_readable hc (.inr (.inl rfl))).2, hdbg.symm⟩
  · exact ⟨(Config.not_readable hc (.inr (.inr hout))).2, hdbg⟩

/-- A write's frame, and so its success reply, field by field (30_encoding.md R70, R81). -/
theorem requestFrame_writeSingle (hdr : Header) (a v : Word) (extra : Frame) :
    requestFrame hdr .writeSingle a v extra = wordBytes hdr.tid ++ wordBytes hdr.pid
      ++ wordBytes (BitVec.ofNat 16 (6 + extra.length)) ++ [hdr.uid, 0x06] ++ wordBytes a ++ wordBytes v ++ extra := rfl

end Sys2Proof

namespace Sys2Proof.Machine

/-! ### WRITE_PTD -/

/-- Settles O32: WRITE_PTD leaves the setpoint handler's fields (`after_writePtd`) in every state, and each branch has its own
equation. -/
theorem setpointBranches : Obligations.SetpointBranches := by
  intro hdr v extra s
  have hmode : (after (.writePtd hdr v extra) s).mode = setpointMode v := by simp
  have hrate : (after (.writePtd hdr v extra) s).rate = setpointRate s.cfg v := by simp
  refine ⟨_, exec_eq_after _ s, by simp, by simp, ?charge, ?discharge, ?zero⟩
  case charge => exact fun h => ⟨hmode.trans (setpointMode_charge h), hrate.trans (setpointRate_charge _ h)⟩
  case discharge =>
    exact fun h h0 => ⟨hmode.trans (setpointMode_discharge h h0), hrate.trans (setpointRate_discharge _ h h0)⟩
  case zero =>
    rintro rfl
    exact ⟨hmode.trans setpointMode_zero, hrate.trans (setpointRate_zero _)⟩

/-- 43_tick.md R181: a positive rate at 100 passes the bound. -/
theorem exec_tick_of_full {t : State} (hmode : t.mode = .charging) (hsoc : t.soc = 100) (hrate : 0 < t.rate) :
    exec .tick t = .next { t with soc := 100, mode := .idle } := by
  rw [exec_tick_charging hmode, if_pos (by linarith)]
  rfl

/-- 43_tick.md R182: a positive rate at 0 passes the bound. -/
theorem exec_tick_of_empty {t : State} (hmode : t.mode = .discharging) (hsoc : t.soc = 0) (hrate : 0 < t.rate) :
    exec .tick t = .next { t with soc := 0, mode := .idle } := by
  rw [exec_tick_discharging hmode, if_pos (by linarith)]
  rfl

/-- Settles O31: the request map's row, WRITE_PTD's meaning by `exec_writePtd`, and a tick at either bound with the setpoint's
positive rate. -/
theorem writePtdResult : Obligations.WritePtdResult := by
  refine ⟨?decodes, ?executes⟩
  case decodes =>
    intro c F hc hL hn hfc (ha : frameAddress F = c.addrPtd)
    obtain ⟨-, -, hne, -⟩ := Config.wf_iff.1 hc
    rw [decode_of_write hL hn hfc, ha]
    exact decodeWrite_addrPtd c _ _ _ hne
  case executes =>
    intro hdr v extra s hc hm hx
    obtain ⟨-, -, hptd⟩ := Config.slots_lt hc
    have hexec := exec_writePtd hm hdr v (extraFits_iff.2 hx) hptd
    refine ⟨_, hexec, Memory.read_write hm _ _, rfl, fun t ht => ?_⟩
    obtain rfl := Host.Outcome.next.inj (hexec.symm.trans ht)
    constructor
    · intro hfull hbit
      have h0 : v ≠ 0 := by
        rintro rfl
        exact absurd hbit (by decide)
      exact exec_tick_of_full (setpointMode_charge hbit) hfull (setpointRate_pos hc h0)
    · intro hempty hbit h0
      exact exec_tick_of_empty (setpointMode_discharge hbit h0) hempty (setpointRate_pos hc h0)

/-! ### WRITE_DBG -/

/-- Settles O34: each WRITE_DBG inverts the flag and writes it to slot 0 (`exec_writeDbg`), so the second writes there what the
slot held before the first. -/
theorem writeDbgResult : Obligations.WriteDbgResult := by
  refine ⟨?decodes, ?executes⟩
  case decodes =>
    intro c F hL hn hfc (ha : frameAddress F = c.addrDbg)
    rw [decode_of_write hL hn hfc, ha]
    exact decodeWrite_addrDbg c _ _ _
  case executes =>
    intro hdr v w extra s hc hm hx
    rw [← extraFits_iff] at hx
    obtain ⟨hslot, -, -⟩ := Config.slots_lt hc
    refine ⟨_, _, exec_writeDbg hm hdr v hx hslot, exec_writeDbg (Memory.write_wf hm _ _) hdr w hx hslot, ?fields, rfl,
      fun i => ?slots, Bool.not_not s.dbg, Bool.not_not s.dbg, fun hmirror => ?restored⟩
    case fields =>
      have hbytes : wordBytes (flagWord (!s.dbg)) = if s.dbg then [0x00, 0x00] else [0x00, 0x01] := by
        cases s.dbg <;> rfl
      rw [requestFrame_writeSingle, hbytes]
      rfl
    case slots =>
      have hflag : flagWord (!s.dbg) = if s.dbg then 0#16 else 1#16 := by cases s.dbg <;> rfl
      simp [Memory.read_write hm, hflag]
    case restored =>
      calc (s.rm.write 0 (flagWord !s.dbg)).write 0 (flagWord !!s.dbg)
        _ = s.rm.write 0 (flagWord s.dbg) := by rw [Memory.write_write hm, Bool.not_not]
        _ = s.rm := Memory.write_of_read hm hmirror

/-! ### WRITE_ILLEGAL -/

/-- Settles O35: every address named is neither of the two writable ones (`Config.not_writable`), and the exception frame has
header fields alone (`excFrame_requestFrame`). -/
theorem writeIllegalResult : Obligations.WriteIllegalResult := by
  constructor
  · intro c F hc hL hn hfc haddress
    obtain ⟨hptd, hdbg⟩ := haddress.elim id (Config.not_writable hc)
    exact (decode_of_write hL hn hfc).trans (decodeWrite_other c _ _ _ hptd hdbg)
  · intro hdr a v extra s
    rw [exec_writeIllegal, State.raiseExc, excFrame_requestFrame]
    rfl

end Sys2Proof.Machine
end

section
/-! PROOF. The tick (43_tick.md R180 to R186): what one tick leaves, and where a run of ticks takes the state of charge until it
passes the bound of its mode. -/

namespace Sys2Proof.Machine

/-! ### One tick -/

/-- Settles O45: every next state is `after i s`, and no request writes `soc` (`after_soc`). -/
theorem onlyTickAndResetWriteSoc : Obligations.OnlyTickAndResetWriteSoc := by
  intro i s t h htick hreset
  rw [← after_of_exec h]
  exact after_soc htick hreset s

/-- `soc` and `mode` after a tick, in any mode (R181 to R183). -/
def tickResult (mode : Mode) (soc rate : Rat) : Rat × Mode :=
  match mode with
  | .idle => (soc, .idle)
  | .charging => chargingTick soc rate
  | .discharging => dischargingTick soc rate

theorem exec_tick_eq_tickResult (s : State) :
    exec .tick s = .next { s with soc := (tickResult s.mode s.soc s.rate).1, mode := (tickResult s.mode s.soc s.rate).2 } := by
  cases hmode : s.mode with
  | idle => rw [exec_tick_idle hmode, tickResult, ← hmode]
  | charging => simp only [exec, execTick, hmode, tickResult]; rfl
  | discharging => simp only [exec, execTick, hmode, tickResult]; rfl

/-- Settles O41: what a tick leaves in `soc` and `mode` is `tickResult`, a function of the three fields. -/
theorem tickFrame : Obligations.TickFrame := by
  intro s u
  refine ⟨_, _, exec_tick_eq_tickResult s, fun hsoc hmode hrate => ?_⟩
  rw [exec_tick_eq_tickResult u, hsoc, hmode, hrate]

/-- Settles O38: a sum of exactly 100 does not exceed the bound, and the next tick starts at 100 (`exec_tick_of_full`). -/
theorem chargingTickResult : Obligations.ChargingTickResult := by
  intro s hmode
  refine ⟨(exec_tick_charging hmode).trans (by split_ifs <;> rfl), fun hsum hrate => ⟨?_, ?_⟩⟩
  · rw [exec_tick_charging hmode, hsum, if_neg (lt_irrefl _)]
    rfl
  · exact exec_tick_of_full (t := { s with soc := 100 }) hmode rfl hrate

/-- Settles O39: a difference of exactly 0 is not below the bound, and the next tick starts at 0 (`exec_tick_of_empty`). -/
theorem dischargingTickResult : Obligations.DischargingTickResult := by
  intro s hmode
  refine ⟨(exec_tick_discharging hmode).trans (by split_ifs <;> rfl), fun hdiff hrate => ⟨?_, ?_⟩⟩
  · rw [exec_tick_discharging hmode, hdiff, if_neg (lt_irrefl _)]
    rfl
  · exact exec_tick_of_empty (t := { s with soc := 0 }) hmode rfl hrate

/-! ### Runs of ticks within the bound -/

/-- How far a tick that passes no bound moves `soc`. -/
def tickMove (mode : Mode) (rate : Rat) : Rat :=
  match mode with
  | .idle => 0
  | .charging => rate
  | .discharging => -rate

/-- A tick that would bring `soc` to `x` passes no bound. -/
def InBound (mode : Mode) (x : Rat) : Prop :=
  match mode with
  | .idle => True
  | .charging => x ≤ 100
  | .discharging => 0 ≤ x

/-- The state after `k` ticks that pass no bound. -/
def State.afterTicks (s : State) (k : Nat) (rest : List Input) : State :=
  (s.setInputs rest).setSoc (s.soc + k * tickMove s.mode s.rate)

section ByMode
variable {s : State} (k : Nat) (rest : List Input)

theorem afterTicks_idle (h : s.mode = .idle) : s.afterTicks k rest = s.setInputs rest := by
  rw [State.afterTicks, h, tickMove, mul_zero, add_zero]
  rfl

theorem afterTicks_charging (h : s.mode = .charging) :
    s.afterTicks k rest = (s.setInputs rest).setSoc (s.soc + k * s.rate) := by
  rw [State.afterTicks, h, tickMove]

theorem afterTicks_discharging (h : s.mode = .discharging) :
    s.afterTicks k rest = (s.setInputs rest).setSoc (s.soc - k * s.rate) := by
  rw [State.afterTicks, h, tickMove, mul_neg, ← sub_eq_add_neg]

theorem inBound_idle (h : s.mode = .idle) (x : Rat) : InBound s.mode x := by
  rw [h]
  trivial

theorem inBound_charging_iff (h : s.mode = .charging) :
    InBound s.mode (s.soc + k * tickMove s.mode s.rate) ↔ s.soc + k * s.rate ≤ 100 := by
  rw [h]
  rfl

theorem inBound_discharging_iff (h : s.mode = .discharging) :
    InBound s.mode (s.soc + k * tickMove s.mode s.rate) ↔ 0 ≤ s.soc - k * s.rate := by
  rw [h, tickMove, mul_neg, ← sub_eq_add_neg]
  rfl

end ByMode

/-- A step that takes a tick that passes no bound (R181 to R183). -/
theorem stepNext_tick_inBound {s : State} {rest : List Input} (hinputs : s.inputs = .tick :: rest)
    (hbound : InBound s.mode (s.soc + tickMove s.mode s.rate)) :
    stepNext s = (s.setInputs rest).setSoc (s.soc + tickMove s.mode s.rate) := by
  cases hmode : s.mode with
  | idle =>
    rw [stepNext_tick_idle hinputs hmode, tickMove, add_zero]
    rfl
  | charging =>
    rw [hmode] at hbound
    exact stepNext_tick_charging hinputs hmode hbound
  | discharging =>
    rw [hmode, tickMove, ← sub_eq_add_neg] at hbound
    rw [stepNext_tick_discharging hinputs hmode hbound, tickMove, ← sub_eq_add_neg]

/-- R186: where none of `k` ticks passes a bound, they move `soc` by `k` moves. -/
theorem run_ticks {s : State} {k : Nat} {rest : List Input} (hc : s.cfg.wf = true)
    (hinputs : s.inputs = List.replicate k .tick ++ rest)
    (hbound : ∀ j, 1 ≤ j → j ≤ k → InBound s.mode (s.soc + j * tickMove s.mode s.rate)) :
    run k s = .next (s.afterTicks k rest) := by
  induction k generalizing s with
  | zero =>
    obtain rfl : s.inputs = rest := hinputs
    rw [run_zero, State.afterTicks, Nat.cast_zero, zero_mul, add_zero]
    rfl
  | succ k ih =>
    have hsum (j : Nat) : s.soc + tickMove s.mode s.rate + j * tickMove s.mode s.rate
        = s.soc + (j + 1 : Nat) * tickMove s.mode s.rate := by
      push_cast
      ring
    have hnext := stepNext_tick_inBound hinputs (by simpa using hbound 1 le_rfl (by omega))
    have hlater := ih (s := stepNext s) (by rwa [stepNext_cfg]) (by rw [hnext]; rfl) (by
      rw [hnext]
      exact fun j hj hjk => hsum j ▸ hbound (j + 1) (by omega) (by omega))
    rw [run_succ hc, hlater, hnext, State.afterTicks, State.afterTicks, ← hsum k]
    rfl

/-- Where `rate` is not negative, ticks before one that passes no bound pass none either. -/
theorem InBound.of_le {mode : Mode} {soc rate : Rat} {j k : Nat} (hrate : 0 ≤ rate) (hjk : j ≤ k)
    (h : InBound mode (soc + k * tickMove mode rate)) : InBound mode (soc + j * tickMove mode rate) := by
  have hmul : (j : Rat) * rate ≤ k * rate := mul_le_mul_of_nonneg_right (Nat.cast_le.2 hjk) hrate
  cases mode with
  | idle => trivial
  | charging => exact (add_le_add_right hmul soc).trans h
  | discharging =>
    simp only [InBound, tickMove] at h ⊢
    linarith

/-- Settles O40: an idle tick waits, and no tick of a run in Idle has a bound to pass (`run_ticks`). -/
theorem idleTicksChangeNothing : Obligations.IdleTicksChangeNothing := by
  refine ⟨fun s => exec_tick_idle, fun s k rest hc hmode hinputs => ?_⟩
  rw [run_ticks hc hinputs fun _ _ _ => inBound_idle hmode _, afterTicks_idle k rest hmode]
  rfl

section Runs
variable {s : State} {k : Nat} {rest : List Input} (hc : s.cfg.wf = true) (hrate : 0 ≤ s.rate)
include hc hrate

theorem run_ticks_of_last (hinputs : s.inputs = List.replicate k .tick ++ rest)
    (hlast : InBound s.mode (s.soc + k * tickMove s.mode s.rate)) : run k s = .next (s.afterTicks k rest) :=
  run_ticks hc hinputs fun _ _ hjk => hlast.of_le hrate hjk

/-- Where the first `n` ticks pass no bound, they keep the mode, and one tick more is a step from the state they leave. -/
theorem run_ticks_succ {n : Nat} (hinputs : s.inputs = List.replicate (n + 1) .tick ++ rest)
    (hlast : InBound s.mode (s.soc + n * tickMove s.mode s.rate)) :
    run (n + 1) s = .next (stepNext (s.afterTicks n (.tick :: rest)))
    ∧ ∀ j, j < n + 1 → ∃ tail, run j s = .next (s.afterTicks j tail) := by
  have hsplit {j : Nat} (hj : j ≤ n) :
      s.inputs = List.replicate j .tick ++ (List.replicate (n - j) .tick ++ .tick :: rest) := by
    rw [hinputs, ← List.append_assoc, ← List.replicate_add, Nat.add_sub_cancel' hj, List.replicate_succ']
    simp
  have hrun {j : Nat} (hj : j ≤ n) := run_ticks_of_last hc hrate (hsplit hj) (hlast.of_le hrate hj)
  refine ⟨?_, fun j hj => ⟨_, hrun (Nat.lt_succ_iff.1 hj)⟩⟩
  have hn : run n s = .next (s.afterTicks n (.tick :: rest)) := by simpa using hrun le_rfl
  exact (run_add 1 hc hn).trans (run_succ (s := s.afterTicks n (.tick :: rest)) hc 0)

end Runs

/-- Settles O42: the last of the `k` ticks passes no bound, so none does (`run_ticks_of_last`). -/
theorem ticksAccumulate : Obligations.TicksAccumulate := by
  intro s k rest hc hinputs hrate
  constructor
  · intro hmode hlast
    rw [run_ticks_of_last hc hrate hinputs ((inBound_charging_iff k hmode).2 hlast), afterTicks_charging k rest hmode]
    rfl
  · intro hmode hlast
    rw [run_ticks_of_last hc hrate hinputs ((inBound_discharging_iff k hmode).2 hlast), afterTicks_discharging k rest hmode]
    rfl

/-! ### The tick that clamps -/

/-- The formula of R186: of `k` ticks of size `r`, all but the last fit into the distance `x`. -/
theorem exists_last_fitting_tick {x r : Rat} {k : Nat} (hx : 0 ≤ x) (hr : 0 < r) (hk : (k : Int) = (x / r).floor + 1) :
    ∃ n, k = n + 1 ∧ n * r ≤ x ∧ x < n * r + r := by
  change (k : Int) = ⌊x / r⌋ + 1 at hk
  have hnonneg : 0 ≤ ⌊x / r⌋ := Int.floor_nonneg.2 (div_nonneg hx hr.le)
  obtain ⟨n, rfl⟩ : ∃ n, k = n + 1 := ⟨k - 1, by omega⟩
  have hfloor : ⌊x / r⌋ = (n : Int) := by omega
  obtain ⟨hle, hlt⟩ := Int.floor_eq_iff.1 hfloor
  rw [Int.cast_natCast] at hle hlt
  rw [div_lt_iff₀ hr, add_one_mul] at hlt
  exact ⟨n, rfl, (le_div_iff₀ hr).1 hle, hlt⟩

/-- Settles O43: all ticks but the last fit into the distance to the bound (`exists_last_fitting_tick`), and the last clamps. -/
theorem clampTickNumber : Obligations.ClampTickNumber := by
  intro s k rest hc hinputs hrate
  constructor
  · intro hmode hfull hk
    obtain ⟨n, rfl, hfits, hpasses⟩ := exists_last_fitting_tick (sub_nonneg.2 hfull) hrate hk
    have hlast := (inBound_charging_iff n hmode).2 (le_sub_iff_add_le'.1 hfits)
    obtain ⟨hclamp, hbefore⟩ := run_ticks_succ hc hrate.le hinputs hlast
    refine ⟨?_, fun j hj => ?_⟩
    · rw [hclamp, afterTicks_charging n _ hmode]
      have hpast : 100 < s.soc + n * s.rate + s.rate := by linarith
      exact congrArg _ (stepNext_tick_charging_clamps rfl hmode hpast)
    · obtain ⟨tail, hrun⟩ := hbefore j hj
      exact ⟨_, hrun.trans (congrArg _ (afterTicks_charging j tail hmode)), hmode, rfl⟩
  · intro hmode hempty hk
    obtain ⟨n, rfl, hfits, hpasses⟩ := exists_last_fitting_tick hempty hrate hk
    have hlast := (inBound_discharging_iff n hmode).2 (sub_nonneg.2 hfits)
    obtain ⟨hclamp, hbefore⟩ := run_ticks_succ hc hrate.le hinputs hlast
    refine ⟨?_, fun j hj => ?_⟩
    · rw [hclamp, afterTicks_discharging n _ hmode]
      have hpast : s.soc - n * s.rate - s.rate < 0 := by linarith
      exact congrArg _ (stepNext_tick_discharging_clamps rfl hmode hpast)
    · obtain ⟨tail, hrun⟩ := hbefore j hj
      exact ⟨_, hrun.trans (congrArg _ (afterTicks_discharging j tail hmode)), hmode, rfl⟩

/-! ### The full charge -/

/-- 10_state.md R34, 42_write_requests.md R153: charging at rated power moves `soc` by `100 / T_CHG`. -/
theorem setpointRate_ratedPower {c : Config} (hc : c.wf = true) (hkw : c.pKw ≤ 32768) :
    setpointRate c (BitVec.ofNat 16 (65536 - c.pKw)) = 100 / (c.tChg : Rat) := by
  obtain ⟨-, -, -, -, -, -, -, -, -, hpos, -⟩ := Config.wf_iff.1 hc
  have hraw : (BitVec.ofNat 16 (65536 - c.pKw)).toNat = 65536 - c.pKw := by
    rw [BitVec.toNat_ofNat]
    omega
  have hbit : (BitVec.ofNat 16 (65536 - c.pKw))[15] = true := bit15_eq_true_iff.2 (by omega)
  have hmagnitude : magnitude (BitVec.ofNat 16 (65536 - c.pKw)) = c.pKw := by
    rw [magnitude, hraw]
    omega
  have hne : (c.pKw : Rat) ≠ 0 := Nat.cast_ne_zero.2 hpos.ne'
  rw [setpointRate_charge c hbit, hmagnitude, chargeResolution, mul_div_assoc', mul_div_mul_left _ _ hne]

/-- Settles O44: `T_CHG` ticks of `100 / T_CHG` reach 100 exactly (`ticksAccumulate`), and the tick after them is the one that
R186 names (`clampTickNumber`). -/
theorem fullChargeTakesChargeTime : Obligations.FullChargeTakesChargeTime := by
  intro s rest hc hkw hmode hsoc hrate hinputs
  rw [setpointRate_ratedPower hc hkw] at hrate
  obtain ⟨-, -, -, -, -, -, -, -, -, -, hchg, -⟩ := Config.wf_iff.1 hc
  have hpos : (0 : Rat) < s.cfg.tChg := Nat.cast_pos.2 hchg
  have hratePos : 0 < s.rate := hrate ▸ div_pos (by norm_num) hpos
  have hsum : s.soc + s.cfg.tChg * s.rate = 100 := by rw [hsoc, hrate, zero_add, mul_div_cancel₀ _ hpos.ne']
  refine ⟨hrate, ?_, ?_⟩
  · have hfirst : s.inputs = List.replicate s.cfg.tChg .tick ++ (.tick :: rest) := by
      rw [hinputs, List.replicate_succ']
      simp
    obtain ⟨hcharge, -⟩ := ticksAccumulate s s.cfg.tChg (.tick :: rest) hc hfirst hratePos.le
    rw [hcharge hmode hsum.le, hsum]
  · have hcount : ((s.cfg.tChg + 1 : Nat) : Int) = ((100 - s.soc) / s.rate).floor + 1 := by
      have hdiv : (100 - s.soc) / s.rate = ((s.cfg.tChg : Int) : Rat) := by
        rw [Int.cast_natCast, ← hsum, add_sub_cancel_left, mul_div_cancel_right₀ _ hratePos.ne']
      rw [hdiv, Rat.floor_intCast, Nat.cast_succ]
    obtain ⟨hcharge, -⟩ := clampTickNumber s (s.cfg.tChg + 1) rest hc hinputs hratePos
    exact (hcharge hmode (by rw [hsoc]; norm_num) hcount).1

end Sys2Proof.Machine
end

section
/-! PROOF. Nothing after reset is fatal (60_exceptions.md R207): a run of a well-formed configuration goes on. -/

namespace Sys2Proof.Machine

/-- Settles O10, by induction on the number of steps: a well-formed configuration steps (`run_succ`), and the step keeps it. -/
theorem runNeverStops : Obligations.RunNeverStops := by
  intro s k hc
  induction k generalizing s with
  | zero => exact ⟨s, run_zero s⟩
  | succ k ih =>
    rw [run_succ hc]
    exact ih (stepNext s) (by simpa using hc)

end Sys2Proof.Machine
end

section
/-! PROOF. The causes of the exceptions and their priority (60_exceptions.md R202, R203). Reads and writes go through one
argument, by function code. -/

namespace Sys2Proof

/-- R75, R76: a byte that is no unsupported function code spells one of the two supported ones. -/
theorem exists_functionCode {b : Byte} (h : ¬ (b ≠ 0x03#8 ∧ b ≠ 0x06#8)) : ∃ fc : FunctionCode, b = fc.toByte := by
  rw [← functionCodeOf_eq_none] at h
  obtain ⟨fc, hfc⟩ := Option.ne_none_iff_exists'.1 h
  exact ⟨fc, functionCodeOf_eq_some.1 hfc⟩

/-- R202: the routing table of the function code does not hold the address `a`. -/
def FunctionCode.UnknownAddress (fc : FunctionCode) (c : Config) (a : Word) : Prop :=
  match fc with
  | .readHolding => a ≠ c.addrSoc ∧ a ≠ c.addrPtd
  | .writeSingle => a ≠ c.addrPtd ∧ a ≠ c.addrDbg

/-- R202 in terms of the byte that spells the function code. -/
theorem FunctionCode.unknownAddress_iff {fc : FunctionCode} {b : Byte} (hfc : b = fc.toByte) {c : Config} {a : Word} :
    fc.UnknownAddress c a ↔
      (b = 0x03#8 ∧ a ≠ c.addrSoc ∧ a ≠ c.addrPtd) ∨ (b = 0x06#8 ∧ a ≠ c.addrPtd ∧ a ≠ c.addrDbg) := by
  subst hfc
  cases fc <;> simp [UnknownAddress, toByte]

/-! ### Which frames decode to the two kinds that raise IllegalDataAddress -/

/-- READ_ILLEGAL or WRITE_ILLEGAL (60_exceptions.md R200). -/
def Instr.IsIllegalAddress (i : Instr) : Prop :=
  (∃ hdr a v extra, i = .readIllegal hdr a v extra) ∨ ∃ hdr a v extra, i = .writeIllegal hdr a v extra

section Routing
variable (c : Config) (hdr : Header) (a v : Word) (extra : Frame)

theorem isIllegalAddress_decodeRead_iff :
    (decodeRead c hdr a v extra).IsIllegalAddress ↔ FunctionCode.readHolding.UnknownAddress c a := by
  unfold decodeRead
  split_ifs <;> simp [Instr.IsIllegalAddress, FunctionCode.UnknownAddress, *]

theorem isIllegalAddress_decodeWrite_iff :
    (decodeWrite c hdr a v extra).IsIllegalAddress ↔ FunctionCode.writeSingle.UnknownAddress c a := by
  unfold decodeWrite
  split_ifs <;> simp [Instr.IsIllegalAddress, FunctionCode.UnknownAddress, *]

end Routing

/-- A frame that passes the earlier checks of R100 is judged by its address. -/
theorem isIllegalAddress_decode_iff (c : Config) {F : Frame} {fc : FunctionCode} (hL : 6 ≤ frameLen F)
    (hn : 6 + frameLen F ≤ F.length) (hfc : frameFc F = fc.toByte) :
    (decode c F).IsIllegalAddress ↔ fc.UnknownAddress c (frameAddress F) := by
  cases fc with
  | readHolding =>
    rw [decode_of_read hL hn hfc]
    exact isIllegalAddress_decodeRead_iff c _ _ _ _
  | writeSingle =>
    rw [decode_of_write hL hn hfc]
    exact isIllegalAddress_decodeWrite_iff c _ _ _ _

/-- A frame that fails an earlier check of R100 decodes to neither kind. -/
theorem complete_of_isIllegalAddress {c : Config} {F : Frame} (h : (decode c F).IsIllegalAddress) :
    6 ≤ frameLen F ∧ 6 + frameLen F ≤ F.length ∧ ∃ fc : FunctionCode, frameFc F = fc.toByte := by
  rcases decode_cases F with hshort | ⟨hn, hL, hfc⟩ | ⟨fc, hn, hL, hfc, hcut⟩ | ⟨hL, hn, hfc⟩ | ⟨hL, hn, hfc⟩
  · simp [decode_of_short hshort, Instr.IsIllegalAddress] at h
  · simp [decode_of_unsupported hn hL hfc, Instr.IsIllegalAddress] at h
  · simp [decode_of_truncated hn hL hfc hcut, Instr.IsIllegalAddress] at h
  · exact ⟨hL, hn, _, hfc⟩
  · exact ⟨hL, hn, _, hfc⟩

/-- Settles O21: only a complete frame of a supported function code decodes to one of the two kinds
(`complete_of_isIllegalAddress`), and then its address decides (`isIllegalAddress_decode_iff`). -/
theorem illegalDataAddressCause : Obligations.IllegalDataAddressCause := by
  intro c F
  constructor
  · intro h
    obtain ⟨hL, hn, fc, hfc⟩ := complete_of_isIllegalAddress h
    have hunknown := (isIllegalAddress_decode_iff c hL hn hfc).1 h
    exact ⟨by omega, hL, hn, (FunctionCode.unknownAddress_iff hfc).1 hunknown⟩
  · rintro ⟨-, hL, hn, hunknown⟩
    obtain ⟨fc, hfc⟩ : ∃ fc : FunctionCode, frameFc F = fc.toByte := exists_functionCode (by tauto)
    exact (isIllegalAddress_decode_iff c hL hn hfc).2 ((FunctionCode.unknownAddress_iff hfc).2 hunknown)

end Sys2Proof

namespace Sys2Proof.Machine

/-! ### The first outcome whose condition a frame meets -/

/-- The dispatcher's handler for a function code (40_frame_codec.md R105). -/
def handle (fc : FunctionCode) (a v : Word) (s : State) : HandlerResult × State :=
  match fc with
  | .readHolding => handleRead a v s
  | .writeSingle => handleWrite a v s

section Handler
variable {fc : FunctionCode} {a : Word} {s : State} (v : Word)

theorem handle_of_unknownAddress (h : fc.UnknownAddress s.cfg a) : handle fc a v s = (.exc .illegalDataAddress, s) := by
  cases fc with
  | readHolding =>
    obtain ⟨hsoc, hptd⟩ := h
    exact (if_neg hsoc).trans (if_neg hptd)
  | writeSingle =>
    obtain ⟨hptd, hdbg⟩ := h
    exact (if_neg hdbg).trans (if_neg hptd)

/-- At an address of its routing table the handler succeeds, and no reply has left yet. -/
theorem exists_handle_success (h : ¬ fc.UnknownAddress s.cfg a) :
    ∃ slot u, handle fc a v s = (.success slot, u) ∧ u.rsp = s.rsp := by
  cases fc with
  | readHolding =>
    unfold handle handleRead
    split_ifs with hsoc hptd
    · exact ⟨_, _, rfl, by simp⟩
    · exact ⟨_, _, rfl, by simp⟩
    · exact absurd ⟨hsoc, hptd⟩ h
  | writeSingle =>
    unfold handle handleWrite
    split_ifs with hdbg hptd
    · exact ⟨_, _, rfl, by simp⟩
    · exact ⟨_, _, rfl, by simp⟩
    · exact absurd ⟨hptd, hdbg⟩ h

end Handler

section Complete
variable (s : State) {F : Frame} {fc : FunctionCode} (hL : 6 ≤ frameLen F) (hn : 6 + frameLen F ≤ F.length)
  (hfc : frameFc F = fc.toByte)
include hL hn hfc

theorem exec_decode_of_complete :
    exec (decode s.cfg F) s = .next (replyResult F (handle fc (frameAddress F) (frameValue F) s)) := by
  cases fc with
  | readHolding => exact exec_decode_of_read s hL hn hfc
  | writeSingle => exact exec_decode_of_write s hL hn hfc

/-- A complete frame with an unknown address replies IllegalDataAddress. -/
theorem rsp_of_unknownAddress (h : fc.UnknownAddress s.cfg (frameAddress F)) :
    (after (decode s.cfg F) s).rsp = s.rsp ++ [.frame (excFrame F .illegalDataAddress)] := by
  rw [after_of_exec (exec_decode_of_complete s hL hn hfc), handle_of_unknownAddress _ h]
  rfl

/-- A complete frame with a known address replies a success frame. -/
theorem exists_rsp_of_knownAddress (h : ¬ fc.UnknownAddress s.cfg (frameAddress F)) :
    ∃ v, (after (decode s.cfg F) s).rsp = s.rsp ++ [.frame (successFrame F v)] := by
  obtain ⟨slot, u, hhandle, hrsp⟩ := exists_handle_success (frameValue F) h
  rw [after_of_exec (exec_decode_of_complete s hL hn hfc), hhandle, ← hrsp]
  exact ⟨u.regRead slot, rfl⟩

end Complete

/-- Settles O20: one lemma on the reply per check of R100, in that order. -/
theorem outcomePriority : Obligations.OutcomePriority := by
  intro s t F hexec n L fc address short unsupported truncated unknown
  obtain rfl := after_of_exec hexec
  refine ⟨?noReply, ?illegalFunction, ?truncatedFrame, ?illegalDataAddress, ?success⟩
  case noReply =>
    intro hshort
    rw [decode_of_short hshort]
    rfl
  case illegalFunction =>
    intro hshort hunsupported
    obtain ⟨hn, hL⟩ : 8 ≤ n ∧ 2 ≤ L := by omega
    rw [after_of_exec (exec_decode_of_unsupported s hn hL (functionCodeOf_eq_none.2 hunsupported))]
    rfl
  case truncatedFrame =>
    intro hshort hsupported hcut
    obtain ⟨hn, hL⟩ : 8 ≤ n ∧ 2 ≤ L := by omega
    obtain ⟨fc, hfc⟩ := exists_functionCode hsupported
    rw [after_of_exec (exec_decode_of_truncated s hn hL hfc hcut)]
    rfl
  case illegalDataAddress =>
    intro _ hsupported hcomplete hunknown
    obtain ⟨hL, hn⟩ : 6 ≤ L ∧ 6 + L ≤ n := by omega
    obtain ⟨fc, hfc⟩ := exists_functionCode hsupported
    exact rsp_of_unknownAddress s hL hn hfc ((FunctionCode.unknownAddress_iff hfc).2 hunknown)
  case success =>
    intro _ hsupported hcomplete hknown
    obtain ⟨hL, hn⟩ : 6 ≤ L ∧ 6 + L ≤ n := by omega
    obtain ⟨fc, hfc⟩ := exists_functionCode hsupported
    exact exists_rsp_of_knownAddress s hL hn hfc (mt (FunctionCode.unknownAddress_iff hfc).1 hknown)

end Sys2Proof.Machine
end

section
/-! PROOF. No rule but WRITE_DBG's own depends on the debug flag (60_exceptions.md R212): two states that are alike but for the
flag and its mirror stay so under the same instruction, and reply alike unless it is a WRITE_DBG. -/

namespace Sys2Proof.Machine

/-- `u` is `s` but for `dbg`, slot 0 and the replies that have left. -/
structure AlikeButDebug (s u : State) : Prop where
  config : u.cfg = s.cfg
  memory : Memory.wf s.rm = true
  memory' : Memory.wf u.rm = true
  slots : ∀ i, i ≠ 0 → u.rm.read i = s.rm.read i
  soc : u.soc = s.soc
  mode : u.mode = s.mode
  rate : u.rate = s.rate
  sp : u.sp = s.sp
  inputs : u.inputs = s.inputs

namespace AlikeButDebug
variable {s u : State} (h : AlikeButDebug s u)
include h

/-! ### The operations keep the two states alike -/

theorem reply (r r' : Reply) : AlikeButDebug (s.reply r) (u.reply r') := { h with }

theorem setInputs (l : List Input) : AlikeButDebug (s.setInputs l) (u.setInputs l) := { h with inputs := rfl }

theorem setDbg (b b' : Bool) : AlikeButDebug (s.setDbg b) (u.setDbg b') := { h with }

theorem setPowerSetpoint (v : Word) : AlikeButDebug (s.setPowerSetpoint v) (u.setPowerSetpoint v) :=
  { h with mode := rfl, rate := congrArg (setpointRate · v) h.config, sp := rfl }

/-- The value written into slot 0 may differ. -/
theorem regWrite {i : Nat} (hi : i < s.cfg.regmapN) {v w : Word} (hvw : i ≠ 0 → w = v) :
    AlikeButDebug (s.regWrite i v) (u.regWrite i w) where
  config := by simpa using h.config
  memory := State.regWrite_wf h.memory i v
  memory' := State.regWrite_wf h.memory' i w
  slots k hk := by
    rw [State.read_regWrite h.memory hi, State.read_regWrite h.memory' (h.config ▸ hi)]
    by_cases hki : k = i
    · simp [hki, hvw (hki ▸ hk)]
    · simpa [hki] using h.slots k hk
  soc := by simpa using h.soc
  mode := by simpa using h.mode
  rate := by simpa using h.rate
  sp := by simpa using h.sp
  inputs := by simpa using h.inputs

/-- A served transaction that writes the same value into its slot in both states replies that value in both. -/
theorem succeed_regWrite_rsp {i : Nat} (hi : i < s.cfg.regmapN) (v : Word) (F : Frame) (hrsp : u.rsp = s.rsp) :
    ((u.regWrite i v).succeed F i).rsp = ((s.regWrite i v).succeed F i).rsp := by
  rw [State.succeed_rsp, State.succeed_rsp, State.regRead_regWrite_self h.memory hi,
    State.regRead_regWrite_self h.memory' (h.config ▸ hi), State.regWrite_rsp, State.regWrite_rsp, hrsp]

/-! ### The instructions and the step -/

/-- TICK: `soc`, `mode` and `rate` decide what it does. -/
theorem after_tick : AlikeButDebug (after .tick s) (after .tick u) := by
  rw [after_of_exec (exec_tick_eq_tickResult s), after_of_exec (exec_tick_eq_tickResult u), h.soc, h.mode, h.rate]
  exact { h with soc := rfl, mode := rfl, rate := rfl }

/-- RESET: every state element gets its reset value. -/
theorem after_reset : AlikeButDebug (after .reset s) (after .reset u) :=
  { h with memory := rfl, memory' := rfl, slots := fun _ _ => rfl, soc := rfl, mode := rfl, rate := rfl, sp := rfl }

variable (hc : s.cfg.wf = true)
include hc

/-- Every instruction keeps the two states alike. -/
theorem after (i : Instr) : AlikeButDebug (after i s) (after i u) := by
  obtain ⟨hzero, hsoc, hptd⟩ := Config.slots_lt hc
  cases i with
  | readSoc hdr v extra =>
    rw [after_readSoc, after_readSoc, h.config, h.soc]
    exact (h.regWrite hsoc fun _ => rfl).reply _ _
  | readPtd hdr v extra =>
    rw [after_readPtd, after_readPtd, h.config, h.sp]
    exact (h.regWrite hptd fun _ => rfl).reply _ _
  | writePtd hdr v extra =>
    rw [after_writePtd, after_writePtd, h.config]
    exact ((h.setPowerSetpoint v).regWrite hptd fun _ => rfl).reply _ _
  | writeDbg hdr v extra =>
    exact ((h.setDbg (!s.dbg) (!u.dbg)).regWrite hzero fun hne => absurd rfl hne).reply _ _
  | tick => exact h.after_tick
  | reset => exact h.after_reset
  | _ => exact h.reply _ _

/-- Every reply but WRITE_DBG's is the same in both states. -/
theorem after_rsp {i : Instr} (hdbg : ∀ hdr v extra, i ≠ .writeDbg hdr v extra) (hrsp : u.rsp = s.rsp) :
    (Machine.after i u).rsp = (Machine.after i s).rsp := by
  obtain ⟨-, hsoc, hptd⟩ := Config.slots_lt hc
  cases i with
  | readSoc hdr v extra =>
    rw [after_readSoc, after_readSoc, h.config, h.soc]
    exact h.succeed_regWrite_rsp hsoc _ _ hrsp
  | readPtd hdr v extra =>
    rw [after_readPtd, after_readPtd, h.config, h.sp]
    exact h.succeed_regWrite_rsp hptd _ _ hrsp
  | writePtd hdr v extra =>
    rw [after_writePtd, after_writePtd, h.config]
    exact (h.setPowerSetpoint v).succeed_regWrite_rsp hptd _ _ hrsp
  | writeDbg hdr v extra => exact absurd rfl (hdbg hdr v extra)
  | _ => simp [hrsp, h.config]

theorem stepNext : AlikeButDebug (stepNext s) (stepNext u) := by
  cases hinputs : s.inputs with
  | nil => simpa [Machine.stepNext, hinputs, h.inputs] using h
  | cons inp rest =>
    rw [stepNext_of_input hinputs, stepNext_of_input (h.inputs.trans hinputs), h.config]
    exact (h.setInputs rest).after hc _

theorem stepNext_rsp (hrsp : u.rsp = s.rsp)
    (hdbg : ∀ inp rest, s.inputs = inp :: rest → ∀ hdr v extra, decodeInput s.cfg inp ≠ .writeDbg hdr v extra) :
    (Machine.stepNext u).rsp = (Machine.stepNext s).rsp := by
  cases hinputs : s.inputs with
  | nil => simpa [Machine.stepNext, hinputs, h.inputs] using hrsp
  | cons inp rest =>
    rw [stepNext_of_input hinputs, stepNext_of_input (h.inputs.trans hinputs), h.config]
    exact (h.setInputs rest).after_rsp hc (hdbg inp rest hinputs) hrsp

end AlikeButDebug

/-- Two states alike but for the flag and its mirror, as the obligation writes it. -/
theorem AlikeButDebug.eq_update {s u : State} (h : AlikeButDebug s u) :
    u = { s with dbg := u.dbg, rm := u.rm, rsp := u.rsp } :=
  State.ext_fields h.config rfl h.soc h.mode h.rate h.sp rfl h.inputs rfl

/-- Settles O53: the step waits in both states or executes the same instruction in both, which leaves them alike
(`AlikeButDebug.stepNext`) and, but for a WRITE_DBG, with the same reply (`AlikeButDebug.stepNext_rsp`). -/
theorem debugFlagAffectsNothingElse : Obligations.DebugFlagAffectsNothingElse := by
  intro s u t t' hs hu heq hslots ht ht'
  have h : AlikeButDebug s u := by
    rw [heq]
    exact ⟨rfl, hs.memory, hu.memory, hslots, rfl, rfl, rfl, rfl, rfl⟩
  have hrsp : u.rsp = s.rsp := by rw [heq]
  rw [step_eq_stepNext hs.config] at ht
  rw [step_eq_stepNext hu.config] at ht'
  obtain rfl := Host.Outcome.next.inj ht
  obtain rfl := Host.Outcome.next.inj ht'
  have hnext := h.stepNext hs.config
  exact ⟨hnext.eq_update, hnext.slots, h.stepNext_rsp hs.config hrsp⟩

end Sys2Proof.Machine
end

section
/-! PROOF. Reset and waiting (70_reset_and_hazards.md R230 to R233): what RESET leaves, that the state after reset has the
invariant and its mirrors agree, and that a step with nothing handed in waits. -/

namespace Sys2Proof.Machine

/-! ### Waiting -/

/-- Settles O8: past the configuration check, a step without an input answers its own state. -/
theorem stepWithoutInputWaits : Obligations.StepWithoutInputWaits := fun _ => step_of_no_input

/-! ### RESET -/

/-- Settles O47: RESET answers the reset state with the two ports kept (`after_reset`), so that each clause is one of its
fields. -/
theorem resetResult : Obligations.ResetResult := fun s =>
  ⟨_, exec_eq_after .reset s, Memory.read_nil, rfl, rfl, rfl, rfl, rfl, rfl, rfl, rfl, after_reset s⟩

/-! ### The state after reset -/

/-- Settles O50: `State.reset` is the reset state under EX, which is well formed. -/
theorem resetMeetsInvariant : Obligations.ResetMeetsInvariant :=
  ⟨inv_init (by decide), fun _ l hc => inv_initWith hc l⟩

/-- R20: every slot reads `0x0000` after reset, in range or not. -/
@[simp] theorem State.regRead_init (c : Config) (i : Nat) : (State.init c).regRead i = 0 := ite_self _

/-- The register value of the reset state of charge: 50 percent in tenths. -/
theorem socValue_init (c : Config) : socValue (State.init c).soc = 500#16 :=
  show socValue 50 = 500#16 by decide +kernel

/-- Settles O48: every slot reads 0 after reset, which is what `dbg` and `SP` hold then; the stale slot is written by the
READ_SOC itself before its reply reads it (`exec_readSoc`). -/
theorem resetMirrorsAgree : Obligations.ResetMirrorsAgree := by
  intro c hdr v extra hc hx
  obtain ⟨-, hsoc, -⟩ := Config.slots_lt hc
  have hread := exec_readSoc (s := State.init c) rfl hdr v (extraFits_iff.2 hx) hsoc
  rw [socValue_init] at hread
  refine ⟨State.regRead_init c _, State.regRead_init c _, State.regRead_init c _, rfl, State.regRead_init c _,
    socValue_init c, _, hread, ?slot, ?reply⟩
  case slot =>
    have hwritten := Memory.read_write (m := []) rfl c.addrSoc.toNat 500#16 c.addrSoc.toNat
    exact (State.regRead_of_lt _ hsoc).trans (hwritten.trans (if_pos rfl))
  case reply =>
    rw [requestFrame_readHolding]
    rfl

end Sys2Proof.Machine
end
